-- ==== Sys2Proof/Word.lean ====
section
/-! DEFINITION. The word types of AES128E: bytes, 32-bit words, 16-byte blocks, four-word register banks,
4-byte columns and the 176-byte schedule (00_scope.md R7, R8; 10_state.md R21). -/

namespace Sys2Proof

/-- A byte `b[7:0]` (R7). -/
abbrev Byte := BitVec 8

/-- A 32-bit word `w[31:0]` (R7). -/
abbrev Word := BitVec 32

/-- A 16-byte string `x[0..15]`: a key, an IV, a block, a round key, the state matrix (R8, R35). -/
abbrev Block := Vector Byte 16

/-- A 4-byte string: a schedule word `W[i]` (R8) or a column of the state matrix (R112). -/
abbrev Col := Vector Byte 4

/-- Four 32-bit registers holding one 16-byte value (R22 to R25). -/
abbrev RegBank := Vector Word 4

/-- The round-key schedule `RK[0..175]` (R33). -/
abbrev Schedule := Vector Byte 176

/-- Sixteen zero bytes (R37). -/
abbrev zeroBlock : Block := Vector.replicate 16 0x00#8

/-- Four zero registers (R37). -/
abbrev zeroBank : RegBank := Vector.replicate 4 0x00000000#32

/-- A zero schedule (R37). -/
abbrev zeroSchedule : Schedule := Vector.replicate 176 0x00#8

end Sys2Proof
end

