-- ==== Sys2Proof/Config.lean ====
section
/-! DEFINITION. What an instance of the engine fixes and the spec leaves OPEN (00_scope.md R6, 92 D2, D13, D27).
Every constant here is opaque: no proof can lean on a value. -/

namespace Sys2Proof.Config

/-- The number of 0x80-byte windows below `AES_BASE`: `AES_BASE` is OPEN but a multiple of 0x80 (R40, D2). -/
opaque aesBaseIndex : Nat

/-- `AES_BASE`, the base address of the register window (R6, R40). -/
def aesBase : Nat := 0x80 * aesBaseIndex

/-- `LATENCY`, in host accesses from acceptance to completion (R6, R132, D13): OPEN and finite.
No definition of the machine reads it; `Safety.withinLatency` states what it bounds. -/
opaque latency : Nat

/-- `RCON[0]`, which no rule reads and to which the spec gives any value (R87, D27, I1). -/
opaque rcon0 : Byte

end Sys2Proof.Config
end

