-- ==== Sys2Proof/Machine/KeyExpansion.lean ====
section
/-! DEFINITION. The key-schedule expander (41_key_expansion.md R100 to R104). -/

namespace Sys2Proof.Machine

/-- `RotWord(t)` (R100). -/
def rotWord (t : Col) : Col := #v[t[1], t[2], t[3], t[0]]

/-- `SubWord(t)` (R101). -/
def subWord (t : Col) : Col := #v[sbox t[0], sbox t[1], sbox t[2], sbox t[3]]

/-- The XOR of two schedule words (R102). -/
def xorCol (a b : Col) : Col := Vector.ofFn fun j => a[j] ^^^ b[j]

/-- `temp` of step `i` of the expansion, made from `W[i-1]` (R102). -/
def keyTemp (i : Nat) (prev : Col) : Col :=
  if i % 4 = 0 then
    let t := subWord (rotWord prev)
    #v[t[0] ^^^ rcon (i / 4), t[1], t[2], t[3]]
  else prev

/-- The words `W[0]` to `W[n+3]`: the key's four, then `n` steps of `W[i] = W[i-4] ^ temp` (R102). -/
def keyWords (key : Block) : (n : Nat) → Vector Col (n + 4)
  | 0 =>
    #v[#v[key[0], key[1], key[2], key[3]], #v[key[4], key[5], key[6], key[7]],
       #v[key[8], key[9], key[10], key[11]], #v[key[12], key[13], key[14], key[15]]]
  | n + 1 =>
    let w := keyWords key n
    w.push (xorCol w[n] (keyTemp (n + 4) w[n + 3]))

/-- `KeyExpansion(key)`: the 44 words laid out as 176 bytes, `W[i] = RK[4i..4i+3]` (R102). -/
def keyExpansion (key : Block) : Schedule :=
  let w := keyWords key 40
  Vector.ofFn fun b => (w[b.val / 4]'(by omega))[b.val % 4]'(by omega)

/-- `W[i] = RK[4i..4i+3]` (R8, R102). -/
def scheduleWord (rk : Schedule) (i : Fin 44) : Col :=
  Vector.ofFn fun j => rk[4 * i.val + j.val]'(by omega)

/-- `RoundKey(r) = RK[16r..16r+15]` (R103). -/
def roundKey (rk : Schedule) (r : Fin 11) : Block :=
  Vector.ofFn fun i => rk[16 * r.val + i.val]'(by omega)

end Sys2Proof.Machine
end

