-- ==== Sys2Proof/Machine/ForwardCipher.lean ====
section
/-! DEFINITION. The forward block-cipher pipeline (42_forward_cipher.md R110 to R114). Cell `s[r][c]` of the state
matrix is byte `r + 4c` (10_state.md R35). -/

namespace Sys2Proof.Machine

/-- `SubBytes(s)` (R110). -/
def subBytes (s : Block) : Block := Vector.ofFn fun i => sbox s[i]

/-- `ShiftRows(s)`: `s'[r + 4c] = s[r + 4((c + r) mod 4)]` (R111). -/
def shiftRows (s : Block) : Block :=
  Vector.ofFn fun i => s[i.val % 4 + 4 * ((i.val / 4 + i.val % 4) % 4)]'(by omega)

/-- Column `c` of the state: bytes `4c` to `4c+3` (R35, R112). -/
def column (s : Block) (c : Fin 4) : Col :=
  #v[s[4 * c.val]'(by omega), s[4 * c.val + 1]'(by omega), s[4 * c.val + 2]'(by omega), s[4 * c.val + 3]'(by omega)]

/-- The state whose every column is `f` of that column of `s` (R112, R122). -/
def mapColumns (f : Col → Col) (s : Block) : Block :=
  Vector.ofFn fun i => (f (column s ⟨i.val / 4, by omega⟩))[i.val % 4]'(by omega)

/-- MixColumns on one column, the doubling form (R112). -/
def mixColumn (a : Col) : Col :=
  let t := a[0] ^^^ a[1] ^^^ a[2] ^^^ a[3]
  #v[a[0] ^^^ t ^^^ xtime (a[0] ^^^ a[1]),
     a[1] ^^^ t ^^^ xtime (a[1] ^^^ a[2]),
     a[2] ^^^ t ^^^ xtime (a[2] ^^^ a[3]),
     a[3] ^^^ t ^^^ xtime (a[3] ^^^ a[0])]

/-- `MixColumns(s)` (R112). -/
def mixColumns (s : Block) : Block := mapColumns mixColumn s

/-- `AddRoundKey(s, r)`: `s'[i] = s[i] ^ RK[16r + i]` (R113). -/
def addRoundKey (rk : Schedule) (r : Fin 11) (s : Block) : Block :=
  Vector.ofFn fun i => s[i] ^^^ rk[16 * r.val + i.val]'(by omega)

/-- One of the rounds 1 to 9 (R114). -/
def forwardRound (rk : Schedule) (s : Block) (r : Fin 11) : Block :=
  addRoundKey rk r (mixColumns (shiftRows (subBytes s)))

/-- `Cipher(blk, RK)` (R114): the last round has no MixColumns. -/
def cipher (blk : Block) (rk : Schedule) : Block :=
  let s0 := addRoundKey rk 0 blk
  let s9 := [1, 2, 3, 4, 5, 6, 7, 8, 9].foldl (forwardRound rk) s0
  addRoundKey rk 10 (shiftRows (subBytes s9))

end Sys2Proof.Machine
end

