-- ==== Sys2Proof/Machine/InverseCipher.lean ====
section
/-! DEFINITION. The inverse block-cipher pipeline (43_inverse_cipher.md R120 to R124). -/

namespace Sys2Proof.Machine

/-- `InvSubBytes(s)` (R120). -/
def invSubBytes (s : Block) : Block := Vector.ofFn fun i => invSbox s[i]

/-- `InvShiftRows(s)`: `s'[r + 4c] = s[r + 4((c - r) mod 4)]`; `c + 4 - r` keeps the difference a number (R121). -/
def invShiftRows (s : Block) : Block :=
  Vector.ofFn fun i => s[i.val % 4 + 4 * ((i.val / 4 + 4 - i.val % 4) % 4)]'(by omega)

/-- InvMixColumns on one column, with the Galois-field multiply unit (R122). -/
def invMixColumn (a : Col) : Col :=
  #v[gfMul a[0] 0x0E ^^^ gfMul a[1] 0x0B ^^^ gfMul a[2] 0x0D ^^^ gfMul a[3] 0x09,
     gfMul a[0] 0x09 ^^^ gfMul a[1] 0x0E ^^^ gfMul a[2] 0x0B ^^^ gfMul a[3] 0x0D,
     gfMul a[0] 0x0D ^^^ gfMul a[1] 0x09 ^^^ gfMul a[2] 0x0E ^^^ gfMul a[3] 0x0B,
     gfMul a[0] 0x0B ^^^ gfMul a[1] 0x0D ^^^ gfMul a[2] 0x09 ^^^ gfMul a[3] 0x0E]

/-- `InvMixColumns(s)` (R122). -/
def invMixColumns (s : Block) : Block := mapColumns invMixColumn s

/-- One of the rounds 9 to 1: AddRoundKey comes before InvMixColumns (R123). -/
def inverseRound (rk : Schedule) (s : Block) (r : Fin 11) : Block :=
  invMixColumns (addRoundKey rk r (invSubBytes (invShiftRows s)))

/-- `InvCipher(blk, RK)` (R123): the last round has no InvMixColumns. -/
def invCipher (blk : Block) (rk : Schedule) : Block :=
  let s10 := addRoundKey rk 10 blk
  let s1 := [9, 8, 7, 6, 5, 4, 3, 2, 1].foldl (inverseRound rk) s10
  addRoundKey rk 0 (invSubBytes (invShiftRows s1))

end Sys2Proof.Machine
end

