-- ==== Sys2Proof/Syntax.lean ====
section
/-! DEFINITION. The syntax of AES128E: the eight commands (30_encoding.md R61), the host's bus accesses
(20_memory.md R42) and the lines of the bus-transaction assembly (30_encoding.md R66). -/

namespace Sys2Proof

/-- The commands, one constructor per row of the opcode map (R61). None has an operand field (R65). -/
inductive Instr where
  /-- 0x1, expand `KEY` into `RK` (R133). -/
  | keyexp
  /-- 0x2, ECB encrypt with the prepared key (R134). -/
  | ecbenc
  /-- 0x3, ECB decrypt with the prepared key (R135). -/
  | ecbdec
  /-- 0x4, expand `KEY`, then ECB encrypt (R136). -/
  | ecbenck
  /-- 0x5, expand `KEY`, then ECB decrypt (R137). -/
  | ecbdeck
  /-- 0x6, expand `KEY` and load `CV` from `IV` (R138). -/
  | cbcinit
  /-- 0x7, CBC decrypt one block (R139). -/
  | cbcdec
  /-- 0x8, zeroise (R140). -/
  | clear
  deriving DecidableEq, Repr

/-- An offset into the 0x80-byte register window (R40): seven bits, so every value lies inside it. -/
abbrev Offset := BitVec 7

/-- A read, or a write of a 32-bit value. A write of another size is answered with a bus error before its data is
looked at (R42, R162), so 32 bits of data are enough for every write. -/
inductive AccessKind where
  | read
  | write (v : Word)
  deriving DecidableEq, Repr

/-- One host access that reached the window: offset, size in bytes, kind (R42). -/
structure Access where
  off : Offset
  size : Nat
  kind : AccessKind
  deriving DecidableEq, Repr

/-- One line of a bus master's program (R66). A plain line is one access, of any size and alignment; `poll` is
`POLL off, mask, val`. -/
inductive BusOp where
  | access (a : Access)
  | poll (off : Offset) (mask val : Word)
  deriving DecidableEq, Repr

/-- `WR off, imm32` (R66). -/
abbrev BusOp.wr (off : Offset) (v : Word) : BusOp := .access ⟨off, 4, .write v⟩

/-- `RD off` (R66). -/
abbrev BusOp.rd (off : Offset) : BusOp := .access ⟨off, 4, .read⟩

end Sys2Proof
end

