-- ==== Sys2Proof/Machine/State.lean ====
section
/-! DEFINITION. The state of the engine (10_state.md R21: exactly these pieces), the model's own host side
(R20: the bus masters' programs, who moves next, what the bus answered), the reasons a step can stop, and reset (R37). -/

namespace Sys2Proof.Machine

/-- The record of an accepted command (R36): the opcode, held as the command it stands for, and the latched copies
of `KEY`, `DIN` and `IV`. -/
structure Pending where
  op : Instr
  key : Block
  blk : Block
  iv : Block
  deriving DecidableEq, Repr

/-- Who moves next (R20, R49, R132, R190). The engine has one step of its own, `Complete`; a master performs one access. -/
inductive Turn where
  /-- Bus master `m` performs the next line of its program. -/
  | master (m : Nat)
  /-- The engine's completion step may fire. -/
  | engine
  /-- The platform resets the engine. -/
  | reset
  /-- Nothing happens. -/
  | idle
  deriving DecidableEq, Repr

/-- What the bus answers to one access (R42, R44, R162). -/
inductive Reply where
  | data (v : Word)
  | done
  | busError (off : Offset) (size : Nat)
  deriving DecidableEq, Repr

/-- Why the machine stops. -/
inductive Fault where
  /-- Raised by a command's meaning, and by the engine's turn, when there is no pending command to complete:
  `Complete` requires `PEND ≠ none` (R131). R28 says no such engine step exists. Safe: the machine stops. -/
  | noPendingCommand
  deriving DecidableEq, Repr

/-- Why a step has no meaning. -/
inductive Refusal where
  /-- Raised only by an arm of `exec` whose instruction has no meaning yet; none is left. Safe. -/
  | notModelled (mnemonic : String)
  deriving DecidableEq, Repr

/-- The whole state. The fields from `key` to `pend` are the engine's (R21); `masters`, `turns` and `replies` are the
model's own account of the host side (R20), and no rule of the engine reads them. -/
structure State where
  /-- `KEY[0..3]` (R22). -/
  key : RegBank
  /-- `IV[0..3]` (R23). -/
  iv : RegBank
  /-- `DIN[0..3]` (R24). -/
  din : RegBank
  /-- `DOUT[0..3]` (R25). -/
  dout : RegBank
  /-- `STATUS.BUSY` (R28). -/
  busy : Bool
  /-- `STATUS.DONE` (R29). -/
  done : Bool
  /-- `STATUS.KEYVALID` (R30). -/
  keyValid : Bool
  /-- `STATUS.ERR` (R31). -/
  err : BitVec 4
  /-- `RK[0..175]` (R33). -/
  rk : Schedule
  /-- `CV[0..15]` (R34). -/
  cv : Block
  /-- `ST[0..15]` (R35). -/
  st : Block
  /-- `PEND` (R36). -/
  pend : Option Pending
  /-- The bus lines each master has still to perform, master 0 first (R49, R66). -/
  masters : List (List BusOp)
  /-- Who moves in the coming steps (R49, R132); when it is used up the rule of `nextTurn` decides. -/
  turns : List Turn
  /-- What the bus answered, oldest first, each with the master it answered. -/
  replies : List (Nat × Reply)
  deriving DecidableEq, Repr

/-- The machine right after reset (R37): everything zero, `PEND` none, and no host activity. -/
def State.reset : State where
  key := zeroBank
  iv := zeroBank
  din := zeroBank
  dout := zeroBank
  busy := false
  done := false
  keyValid := false
  err := 0x0#4
  rk := zeroSchedule
  cv := zeroBlock
  st := zeroBlock
  pend := none
  masters := []
  turns := []
  replies := []

end Sys2Proof.Machine
end

