-- ==== Sys2Proof/Machine/Flags.lean ====
section
/-! DEFINITION. The `STATUS` fields: the word a read gives (10_state.md R27), the error codes (60_exceptions.md R161),
and what acceptance, rejection and completion write to the flags (44_commands.md R130, R131; 10_state.md R28 to R31). -/

namespace Sys2Proof.Machine

/-- The results of a `CMD` write (R161). The reserved codes 0x4 to 0xF have no constructor: none is ever produced. -/
inductive ErrName where
  | none
  | busy
  | illegalCmd
  | noKey
  deriving DecidableEq, Repr

/-- The code of a result in `STATUS.ERR` (R161). -/
def ErrName.code : ErrName → BitVec 4
  | .none => 0x0#4
  | .busy => 0x1#4
  | .illegalCmd => 0x2#4
  | .noKey => 0x3#4

/-- `zext_32(ERR ‖ 0b0 ‖ KEYVALID ‖ DONE ‖ BUSY)` (R27, R44). -/
def statusWord (s : State) : Word :=
  (s.err ++ 0#1 ++ BitVec.ofBool s.keyValid ++ BitVec.ofBool s.done ++ BitVec.ofBool s.busy).setWidth 32

/-- The flags an accepted command writes: `ERR ← NONE`, `DONE ← 0`, `BUSY ← 1` (R130). -/
def flagsAccepted (s : State) : State := { s with err := ErrName.none.code, done := false, busy := true }

/-- The flag a rejected command writes: `ERR` alone (R130, R31). -/
def flagsRejected (e : ErrName) (s : State) : State := { s with err := e.code }

/-- The flags a completion writes: `BUSY ← 0`, `DONE ← 1`; `ERR` is not written (R131). -/
def flagsCompleted (s : State) : State := { s with busy := false, done := true }

end Sys2Proof.Machine
end

