-- ==== Sys2Proof/WellFormed.lean ====
section
/-! DEFINITION. What the spec calls well formed: a command word (30_encoding.md R60, R63), a bus access
(20_memory.md R42), an assembly line (30_encoding.md R66), a CBC message length (44_commands.md R141).
The machine does not assume any of these: an ill-formed word or access is answered as the rules say. -/

namespace Sys2Proof

/-- A command has no operands (R65), so every command is well formed. -/
def Instr.wf : Instr → Bool
  | .keyexp | .ecbenc | .ecbdec | .ecbenck | .ecbdeck | .cbcinit | .cbcdec | .clear => true

/-- A command word is legal when `RSVD` is zero and `OP` is assigned, 0x1 to 0x8 (R60, R61, R63). -/
def commandWordWf (v : Word) : Bool :=
  v.extractLsb' 4 28 == 0#28 && decide (1 ≤ (v.extractLsb' 0 4).toNat) && decide ((v.extractLsb' 0 4).toNat ≤ 8)

/-- The only accesses the engine accepts are aligned 32-bit ones (R42). -/
def Access.wf (a : Access) : Bool := a.size == 4 && a.off.toNat % 4 == 0

/-- Every `WR`, `RD` and `POLL` line of the assembly is an aligned 32-bit transaction (R42, R66). -/
def BusOp.wf : BusOp → Bool
  | .access a => a.wf
  | .poll off _ _ => off.toNat % 4 == 0

/-- A CBC message is a whole number of 16-byte blocks (R141 (d)). -/
def cbcLengthWf (length : Nat) : Bool := length % 16 == 0

end Sys2Proof
end

