-- ==== Sys2Proof/Decode.lean ====
section
/-! DEFINITION. The command decoder, total on every 32-bit word and on any byte string (30_encoding.md R60 to R64),
and after it the encoder, written from the same opcode map (R61). -/

namespace Sys2Proof

/-- Why a word is `Illegal` (R62, R63). The engine reports one code for the first two; the third names byte strings
that are not one 32-bit word and so never present a command (R64, R162). -/
inductive IllegalWord where
  /-- `RSVD ≠ 0`. -/
  | reservedBits
  /-- `OP` is 0x0 or 0x9 to 0xF. -/
  | reservedOp
  /-- Not four bytes. -/
  | notOneWord
  deriving DecidableEq, Repr

/-- The `OP` field, bits 3:0 (R60). -/
def opField (v : Word) : BitVec 4 := v.extractLsb' 0 4

/-- The `RSVD` field, bits 31:4 (R60). -/
def rsvdField (v : Word) : BitVec 28 := v.extractLsb' 4 28

/-- The opcode map read by `OP` (R61, R62). -/
def decodeOp (op : BitVec 4) : Except IllegalWord Instr :=
  match op.toNat with
  | 0x1 => .ok .keyexp
  | 0x2 => .ok .ecbenc
  | 0x3 => .ok .ecbdec
  | 0x4 => .ok .ecbenck
  | 0x5 => .ok .ecbdeck
  | 0x6 => .ok .cbcinit
  | 0x7 => .ok .cbcdec
  | 0x8 => .ok .clear
  | _ => .error .reservedOp

/-- `Decode(v)` (R62): the reserved bits are looked at first. -/
def decode (v : Word) : Except IllegalWord Instr :=
  if rsvdField v ≠ 0#28 then .error .reservedBits else decodeOp (opField v)

/-- The 32-bit value of four bytes, least significant first: `x[3] ‖ x[2] ‖ x[1] ‖ x[0]` (R43). -/
def wordOfBytes (b0 b1 b2 b3 : Byte) : Word := b3 ++ b2 ++ b1 ++ b0

/-- Decoding any byte string: a command is exactly one 32-bit word written in one access (R64). -/
def decodeBytes : List Byte → Except IllegalWord Instr
  | [b0, b1, b2, b3] => decode (wordOfBytes b0 b1 b2 b3)
  | _ => .error .notOneWord

/-- The opcode of a command (R61). -/
def Instr.op : Instr → BitVec 4
  | .keyexp => 0x1#4
  | .ecbenc => 0x2#4
  | .ecbdec => 0x3#4
  | .ecbenck => 0x4#4
  | .ecbdeck => 0x5#4
  | .cbcinit => 0x6#4
  | .cbcdec => 0x7#4
  | .clear => 0x8#4

/-- The command word of a command, format `C`: `OP`, and zero in every bit above it (R60, R61). -/
def encode (i : Instr) : Word := i.op.setWidth 32

/-- The bytes of an instruction of the opcode table whose first `nbits` bits are `w`: its one 32-bit word, the bits
above `nbits` zero. Nothing longer than a word is an instruction (R64). -/
def tableBytes (nbits w : Nat) : List Byte :=
  if nbits ≤ 32 then
    let v := w % 2 ^ nbits
    [BitVec.ofNat 8 v, BitVec.ofNat 8 (v / 2 ^ 8), BitVec.ofNat 8 (v / 2 ^ 16), BitVec.ofNat 8 (v / 2 ^ 24)]
  else []

/-- What the decoder reads from an instruction given in the opcode table's numbering. -/
def decodeTableWord (nbits w : Nat) : Option Instr := (decodeBytes (tableBytes nbits w)).toOption

end Sys2Proof
end

