-- ==== Sys2Proof/Machine/Operands.lean ====
section
/-! DEFINITION. Operand forms. A command has no explicit operand (30_encoding.md R65): its operands are 16-byte
strings assembled from four registers (20_memory.md R43), latched when the command is accepted (10_state.md R36). -/

namespace Sys2Proof.Machine

/-- `bytes(R[0..3])`: `x[4k+j] = R[k][8j+7 : 8j]` (R43). -/
def bytesOf (r : RegBank) : Block :=
  Vector.ofFn fun i => (r[i.val / 4]'(by omega)).extractLsb' (8 * (i.val % 4)) 8

/-- `words(x)`: `R[k] = x[4k+3] ‖ x[4k+2] ‖ x[4k+1] ‖ x[4k]` (R43). -/
def wordsOf (x : Block) : RegBank :=
  Vector.ofFn fun k =>
    wordOfBytes (x[4 * k.val]'(by omega)) (x[4 * k.val + 1]'(by omega)) (x[4 * k.val + 2]'(by omega))
      (x[4 * k.val + 3]'(by omega))

/-- The record latched when command `i` is accepted: `KEY`, `DIN` and `IV` as they stand (R36, R130). -/
def latch (i : Instr) (s : State) : Pending where
  op := i
  key := bytesOf s.key
  blk := bytesOf s.din
  iv := bytesOf s.iv

/-- `a ^ b` on 16-byte strings, byte by byte (R7, R139). -/
def xorBlock (a b : Block) : Block := Vector.ofFn fun i => a[i] ^^^ b[i]

end Sys2Proof.Machine
end

