-- ==== Sys2Proof/Machine/Ops.lean ====
section
/-! DEFINITION. The shared operations over the registers: the register map and its reads and writes
(20_memory.md R41, R44, R45), accepting, rejecting and completing a command (44_commands.md R130, R131), and the
platform's reset (70_reset_and_hazards.md R190). The engine has no trap: a rejection is the only exception it takes
(60_exceptions.md R160, R164), and nothing returns from one (R165). -/

namespace Sys2Proof.Machine

/-! ### The register map -/

/-- What stands at a word offset (R41). -/
inductive Reg where
  | cmd
  | status
  | key (k : Fin 4)
  | iv (k : Fin 4)
  | din (k : Fin 4)
  | dout (k : Fin 4)
  | reserved
  deriving DecidableEq, Repr

/-- The register map (R41). -/
def regAt (off : Offset) : Reg :=
  match off.toNat with
  | 0x00 => .cmd
  | 0x04 => .status
  | 0x10 => .key 0
  | 0x14 => .key 1
  | 0x18 => .key 2
  | 0x1C => .key 3
  | 0x20 => .iv 0
  | 0x24 => .iv 1
  | 0x28 => .iv 2
  | 0x2C => .iv 3
  | 0x30 => .din 0
  | 0x34 => .din 1
  | 0x38 => .din 2
  | 0x3C => .din 3
  | 0x40 => .dout 0
  | 0x44 => .dout 1
  | 0x48 => .dout 2
  | 0x4C => .dout 3
  | _ => .reserved

/-- The value a read of a register gives (R44): `CMD`, `KEY`, `IV` and reserved offsets read as zero. -/
def regValue (s : State) : Reg → Word
  | .status => statusWord s
  | .din k => s.din[k]
  | .dout k => s.dout[k]
  | .cmd | .key _ | .iv _ | .reserved => 0x00000000#32

/-- `ReadReg(off)` (R44). -/
def readReg (off : Offset) (s : State) : Word := regValue s (regAt off)

/-- One word of a register bank replaced (R45). -/
def setWord (r : RegBank) (k : Fin 4) (v : Word) : RegBank := r.set k v

/-! ### Accepting, rejecting and completing a command -/

/-- `reject(code)`: `STATUS.ERR ← code` and nothing else (R130, R164). -/
def reject (e : ErrName) (s : State) : State := flagsRejected e s

/-- Acceptance of command `i`: the operands are latched, then the flags are written (R130). -/
def accept (i : Instr) (s : State) : State := flagsAccepted { s with pend := some (latch i s) }

/-- What every completion does after the body: `PEND ← none`, `BUSY ← 0`, `DONE ← 1` (R131). -/
def finish (s : State) : State := flagsCompleted { s with pend := none }

/-- The completion of a command whose body is `body`, run on the latched operands (R36, R131).
`Complete` requires `PEND ≠ none`. -/
def completeWith (body : Pending → State → State) (s : State) : Host.Outcome State Fault Refusal :=
  match s.pend with
  | none => .fault .noPendingCommand
  | some p => .next (finish (body p s))

/-! ### What bodies write -/

/-- `RK ← KeyExpansion(key)` and `STATUS.KEYVALID ← 1`, given the schedule (R30, R33). -/
def installSchedule (rk : Schedule) (s : State) : State := { s with rk := rk, keyValid := true }

/-- `ST ← x; DOUT ← words(x)` (R134 to R137). -/
def outputBlock (x : Block) (s : State) : State := { s with st := x, dout := wordsOf x }

/-! ### Reset -/

/-- The platform's reset, which takes effect between two accesses (R190): every piece of the engine's state takes its
reset value (R37), a pending command is gone. What the host has still to do and has been answered is not the engine's. -/
def platformReset (s : State) : State :=
  { State.reset with masters := s.masters, turns := s.turns, replies := s.replies }

end Sys2Proof.Machine
end

