-- ==== Sys2Proof/Machine/CbcCommands.lean ====
section
/-! DEFINITION. The CBC decryption commands (44_commands.md R138, R139). -/

namespace Sys2Proof.Machine

/-- `Body_CBCINIT` (R138). -/
def bodyCbcinit (p : Pending) (s : State) : State :=
  { installSchedule (keyExpansion p.key) s with cv := p.iv }

/-- The completion of `CBCINIT` (R131, R138). -/
def execCbcinit (s : State) : Host.Outcome State Fault Refusal := completeWith bodyCbcinit s

/-- `Body_CBCDEC` (R139): `DOUT` takes the XOR with the old `CV`, `ST` keeps the value before it (R35, R143). -/
def bodyCbcdec (p : Pending) (s : State) : State :=
  let x := invCipher p.blk s.rk
  { s with st := x, dout := wordsOf (xorBlock x s.cv), cv := p.blk }

/-- The completion of `CBCDEC` (R131, R139). -/
def execCbcdec (s : State) : Host.Outcome State Fault Refusal := completeWith bodyCbcdec s

end Sys2Proof.Machine
end

