-- ==== Sys2Proof/Machine/EcbCommands.lean ====
section
/-! DEFINITION. The ECB commands, with the prepared key and one-shot (44_commands.md R134 to R137). -/

namespace Sys2Proof.Machine

/-- `Body_ECBENC` (R134). -/
def bodyEcbenc (p : Pending) (s : State) : State := outputBlock (cipher p.blk s.rk) s

/-- The completion of `ECBENC` (R131, R134). -/
def execEcbenc (s : State) : Host.Outcome State Fault Refusal := completeWith bodyEcbenc s

/-- `Body_ECBDEC` (R135). -/
def bodyEcbdec (p : Pending) (s : State) : State := outputBlock (invCipher p.blk s.rk) s

/-- The completion of `ECBDEC` (R131, R135). -/
def execEcbdec (s : State) : Host.Outcome State Fault Refusal := completeWith bodyEcbdec s

/-- `Body_ECBENCK` (R136): the schedule is complete before the cipher reads it (R104). -/
def bodyEcbenck (p : Pending) (s : State) : State :=
  let t := installSchedule (keyExpansion p.key) s
  outputBlock (cipher p.blk t.rk) t

/-- The completion of `ECBENCK` (R131, R136). -/
def execEcbenck (s : State) : Host.Outcome State Fault Refusal := completeWith bodyEcbenck s

/-- `Body_ECBDECK` (R137). -/
def bodyEcbdeck (p : Pending) (s : State) : State :=
  let t := installSchedule (keyExpansion p.key) s
  outputBlock (invCipher p.blk t.rk) t

/-- The completion of `ECBDECK` (R131, R137). -/
def execEcbdeck (s : State) : Host.Outcome State Fault Refusal := completeWith bodyEcbdeck s

end Sys2Proof.Machine
end

