-- ==== Sys2Proof/Machine/KeyCommands.lean ====
section
/-! DEFINITION. `KEYEXP` and `CLEAR`: the commands that produce and destroy key material (44_commands.md R133, R140). -/

namespace Sys2Proof.Machine

/-- `Body_KEYEXP` (R133). -/
def bodyKeyexp (p : Pending) (s : State) : State := installSchedule (keyExpansion p.key) s

/-- The completion of `KEYEXP` (R131, R133). -/
def execKeyexp (s : State) : Host.Outcome State Fault Refusal := completeWith bodyKeyexp s

/-- `Body_CLEAR` (R140). -/
def bodyClear (_ : Pending) (s : State) : State :=
  { s with
    key := zeroBank, iv := zeroBank, din := zeroBank, dout := zeroBank
    rk := zeroSchedule, cv := zeroBlock, st := zeroBlock, keyValid := false }

/-- The completion of `CLEAR` (R131, R140). -/
def execClear (s : State) : Host.Outcome State Fault Refusal := completeWith bodyClear s

end Sys2Proof.Machine
end

