-- ==== Sys2Proof/Machine/Dispatch.lean ====
section
/-! DEFINITION. `exec`: the completion of each command, `case PEND.op of` (44_commands.md R131). -/

namespace Sys2Proof.Machine

def exec (i : Instr) (s : State) : Host.Outcome State Fault Refusal :=
  match i with
  | .keyexp => Sys2Proof.Machine.execKeyexp s
  | .ecbenc => Sys2Proof.Machine.execEcbenc s
  | .ecbdec => Sys2Proof.Machine.execEcbdec s
  | .ecbenck => Sys2Proof.Machine.execEcbenck s
  | .ecbdeck => Sys2Proof.Machine.execEcbdeck s
  | .cbcinit => Sys2Proof.Machine.execCbcinit s
  | .cbcdec => Sys2Proof.Machine.execCbcdec s
  | .clear => Sys2Proof.Machine.execClear s

end Sys2Proof.Machine
end

