-- ==== Sys2Proof/Machine/Window.lean ====
section
/-! DEFINITION. The register window: where it lies (20_memory.md R40), the command front end (44_commands.md R130),
register writes (R45) and one host access (R42). -/

namespace Sys2Proof.Machine

/-- The offset at which an access at physical address `a` reaches the engine when the window stands at `base` (R40).
Outside the window it does not reach the engine (R53). -/
def windowOffset (base a : Nat) : Option Offset :=
  if base ≤ a ∧ a < base + 0x80 then some (BitVec.ofNat 7 (a - base)) else none

/-- The host access of `size` bytes at physical address `a`, if it reaches this engine (R9, R40). -/
def accessAt (a size : Nat) (kind : AccessKind) : Option Access :=
  (windowOffset Config.aesBase a).map fun off => ⟨off, size, kind⟩

/-- The commands that use the prepared key and are rejected without one (R130). -/
def needsKey : Instr → Bool
  | .ecbenc | .ecbdec | .cbcdec => true
  | .keyexp | .ecbenck | .ecbdeck | .cbcinit | .clear => false

/-- `IssueCommand(v)` (R130): the checks in the order of R163. -/
def issueCommand (v : Word) (s : State) : State :=
  if s.busy then reject .busy s
  else
    match decode v with
    | .error _ => reject .illegalCmd s
    | .ok i => if needsKey i && !s.keyValid then reject .noKey s else accept i s

/-- A write to a register (R45): `STATUS`, `DOUT` and reserved offsets ignore it. -/
def writeRegister (v : Word) (s : State) : Reg → State
  | .cmd => issueCommand v s
  | .key k => { s with key := setWord s.key k v }
  | .iv k => { s with iv := setWord s.iv k v }
  | .din k => { s with din := setWord s.din k v }
  | .status | .dout _ | .reserved => s

/-- `WriteReg(off, v)` (R45). -/
def writeReg (off : Offset) (v : Word) (s : State) : State := writeRegister v s (regAt off)

/-- `access(off, n, kind, v)` (R42): the state after it and what the bus answers. An access that is not an aligned
32-bit one ends in a bus error and changes nothing (R162). -/
def access (a : Access) (s : State) : State × Reply :=
  if a.size ≠ 4 ∨ a.off.toNat % 4 ≠ 0 then (s, .busError a.off a.size)
  else
    match a.kind with
    | .read => (s, .data (readReg a.off s))
    | .write v => (writeReg a.off v s, .done)

end Sys2Proof.Machine
end

