-- ==== Sys2Proof/Machine/Schedule.lean ====
section
/-! DEFINITION. Who moves, and what a move does: one access of a bus master, the engine's completion step, the
platform's reset (10_state.md R20; 20_memory.md R48, R49; 44_commands.md R131, R132; 70_reset_and_hazards.md R190). -/

namespace Sys2Proof.Machine

/-- The first master that has a line left. -/
def firstActive : List (List BusOp) → Option Nat
  | [] => none
  | [] :: ps => (firstActive ps).map (· + 1)
  | (_ :: _) :: _ => some 0

/-- Who moves next. The order of the masters' accesses and the moment of the completion are open (R49, R132), so they
are read from `turns`. When that is used up, a pending command completes (the weak fairness of R132), then masters
go on. -/
def nextTurn (s : State) : Turn :=
  match s.turns with
  | t :: _ => t
  | [] =>
    if s.busy then .engine
    else
      match firstActive s.masters with
      | some m => .master m
      | none => .idle

/-- The state once its next turn is taken from the schedule. -/
def takeTurn (s : State) : State := { s with turns := s.turns.tail }

/-- Whether a `POLL` is over: its read gave data whose masked bits equal `val` (R66). -/
def pollEnds (mask val : Word) : Reply → Bool
  | .data v => v &&& mask == val
  | .done | .busError _ _ => false

/-- The program of master `m` becomes `rest`, and the reply is recorded. -/
def recordReply (m : Nat) (rest : List BusOp) (r : Reply) (s : State) : State :=
  { s with masters := s.masters.set m rest, replies := s.replies ++ [(m, r)] }

/-- Master `m` performs the next access of its program (R48: one access at a time, complete before the next).
A `POLL` line stays until its read satisfies it (R66). -/
def masterTurn (m : Nat) (s : State) : State :=
  match s.masters.getD m [] with
  | [] => s
  | .access a :: rest => recordReply m rest (access a s).2 (access a s).1
  | .poll off mask val :: rest =>
    let r := (access ⟨off, 4, .read⟩ s).2
    recordReply m (if pollEnds mask val r then rest else .poll off mask val :: rest) r s

/-- The engine's turn: `Complete`, enabled exactly when `BUSY = 1` (R131). -/
def engineTurn (s : State) : Host.Outcome State Fault Refusal :=
  if s.busy then
    match s.pend with
    | some p => exec p.op s
    | none => .fault .noPendingCommand
  else .next s

/-- What a turn does. -/
def perform : Turn → State → Host.Outcome State Fault Refusal
  | .master m, s => .next (masterTurn m s)
  | .engine, s => engineTurn s
  | .reset, s => .next (platformReset s)
  | .idle, s => .next s

/-- The master programs with `op` put in front of master 0's. -/
def pushLine (op : BusOp) : List (List BusOp) → List (List BusOp)
  | [] => [[op]]
  | p :: ps => (op :: p) :: ps

/-- The command word `w` placed where the engine takes its next command from, so that the very next step runs it: the
engine holds it as accepted (R130), with the operand registers as they stand, and has the next turn. A word that is no
command is put before master 0's program, whose next turn presents it and sees it rejected. -/
def placeCommand (nbits w : Nat) (s : State) : State :=
  match decodeTableWord nbits w with
  | some i => { accept i s with turns := .engine :: s.turns }
  | none => { s with masters := pushLine (.wr 0x00 (BitVec.ofNat 32 w)) s.masters, turns := .master 0 :: s.turns }

end Sys2Proof.Machine
end

