-- ==== Sys2Proof/Machine/HostProgram.lean ====
section
/-! DEFINITION. Host programs: the pseudo-instructions of the assembly (30_encoding.md R67) and the source's call shapes
as host sequences (44_commands.md R141). -/

namespace Sys2Proof.Machine

/-- `CMD m` (R67). -/
def cmdLine (i : Instr) : List BusOp := [.wr 0x00 (encode i)]

/-- The four writes that load a bank standing at `base` (R67). -/
def loadBank (base : Offset) (x : Block) : List BusOp :=
  let w := wordsOf x
  [.wr base w[0], .wr (base + 4) w[1], .wr (base + 8) w[2], .wr (base + 12) w[3]]

/-- `LDKEY x` (R67). -/
def ldkey (x : Block) : List BusOp := loadBank 0x10 x

/-- `LDIV x` (R67). -/
def ldiv (x : Block) : List BusOp := loadBank 0x20 x

/-- `LDDIN x` (R67). -/
def lddin (x : Block) : List BusOp := loadBank 0x30 x

/-- `RDDOUT` (R67). -/
def rddout : List BusOp := [.rd 0x40, .rd 0x44, .rd 0x48, .rd 0x4C]

/-- `WAIT`: poll `STATUS` until `BUSY = 0` (R67). -/
def wait : List BusOp := [.poll 0x04 0x00000001#32 0x00000000#32]

/-- `Aes128Encrypt(key, p)` (R141 (a)). -/
def aes128Encrypt (key p : Block) : List BusOp :=
  ldkey key ++ lddin p ++ cmdLine .ecbenck ++ wait ++ rddout

/-- `Aes128Decrypt(key, c)` (R141 (b)). -/
def aes128Decrypt (key c : Block) : List BusOp :=
  ldkey key ++ lddin c ++ cmdLine .ecbdeck ++ wait ++ rddout

/-- `EcbEncryptInit(key)` (R141 (c)). -/
def ecbEncryptInit (key : Block) : List BusOp := ldkey key ++ cmdLine .keyexp ++ wait

/-- `EcbEncrypt(context, p)` (R141 (c)). -/
def ecbEncrypt (p : Block) : List BusOp := lddin p ++ cmdLine .ecbenc ++ wait ++ rddout

/-- `CbcDecryptInit(key, iv)` (R141 (d)). -/
def cbcDecryptInit (key iv : Block) : List BusOp := ldkey key ++ ldiv iv ++ cmdLine .cbcinit ++ wait

/-- Block `b` of a message, `c[16b..16b+15]` (R141 (d)). -/
def messageBlock (c : List Byte) (b : Nat) : Block := Vector.ofFn fun i => c.getD (16 * b + i.val) 0x00#8

/-- `CbcDecrypt(context, length, c)` with `length` the length of `c` (R141 (d)): one `CBCDEC` a block. A length that
is not a multiple of 16 is refused before any access (I2, D23); length 0 issues nothing (I3). -/
def cbcDecrypt (c : List Byte) : Option (List BusOp) :=
  if cbcLengthWf c.length then
    some ((List.range (c.length / 16)).flatMap fun b =>
      lddin (messageBlock c b) ++ cmdLine .cbcdec ++ wait ++ rddout)
  else none

end Sys2Proof.Machine
end

