-- ==== Sys2Proof/Safety.lean ====
section
/-! DEFINITION. What a legal state is (the invariant of every step), which key the schedule belongs to, what a bounded
latency means, and the other predicates the statements are written in. -/

namespace Sys2Proof.Machine

/-- The invariant of the engine: what every state reached from reset satisfies, and every step keeps. -/
structure State.Inv (s : State) : Prop where
  /-- `BUSY` is 1 exactly when `PEND` is not none (R28). -/
  busy_iff_pending : s.busy = s.pend.isSome
  /-- `BUSY = 1` implies `DONE = 0` (R29). -/
  busy_not_done : s.busy = true → s.done = false
  /-- `ERR` never holds a reserved code (R161). -/
  err_named : ∃ e : ErrName, s.err = e.code
  /-- A pending command that uses the prepared key was accepted with one, and none is destroyed before it completes
  (R130, R30). -/
  pending_keyed : ∀ p, s.pend = some p → needsKey p.op = true → s.keyValid = true
  /-- While `KEYVALID = 1`, `RK` is the expansion of some key (R30). -/
  schedule_expanded : s.keyValid = true → ∃ k, s.rk = keyExpansion k
  /-- While `KEYVALID = 0`, nothing is left of any earlier key or block in `RK`, `CV`, `ST` or `DOUT` (R37, R140). -/
  no_residue : s.keyValid = false → s.rk = zeroSchedule ∧ s.cv = zeroBlock ∧ s.st = zeroBlock ∧ s.dout = zeroBank

/-- No command is pending (R130: the front end is idle). -/
def State.idle (s : State) : Prop := s.busy = false ∧ s.pend = none

/-- The commands whose completion expands a key (R30, R33). -/
def expandsKey : Instr → Bool
  | .keyexp | .ecbenck | .ecbdeck | .cbcinit => true
  | .ecbenc | .ecbdec | .cbcdec | .clear => false

/-- The commands whose completion produces a block (R25). -/
def producesBlock : Instr → Bool
  | .ecbenc | .ecbdec | .ecbenck | .ecbdeck | .cbcdec => true
  | .keyexp | .cbcinit | .clear => false

/-- The step of `s` is the completion of the pending command `p` (R131). -/
def State.completes (s : State) (p : Pending) : Prop :=
  nextTurn s = .engine ∧ s.busy = true ∧ s.pend = some p

/-- The step of `s` is master `m`'s aligned 32-bit write of `v` to `CMD` (R32, R42). -/
def State.presents (s : State) (m : Nat) (v : Word) : Prop :=
  nextTurn s = .master m ∧ ∃ rest, s.masters.getD m [] = .wr 0x00 v :: rest

/-- The step of `s` is master `m`'s aligned 32-bit write of `v` to offset `off` (R42, R45). -/
def State.writes (s : State) (m : Nat) (off : Offset) (v : Word) : Prop :=
  nextTurn s = .master m ∧ off.toNat % 4 = 0 ∧ ∃ rest, s.masters.getD m [] = .wr off v :: rest

/-- `IssueCommand` accepts command `i` in `s` (R130). -/
def State.accepts (s : State) (i : Instr) : Prop :=
  s.busy = false ∧ (needsKey i = true → s.keyValid = true)

/-- How the front end answers a write of the word `w` of command `i` (R130), and of a word with the same `OP` whose
reserved bits are not all zero (R63): the "Encoding" and "Exceptions" of each command's rule. `keyed` says whether it
can be rejected with `NO_KEY`. -/
def AnsweredAtIssue (i : Instr) (w : Word) (keyed : Bool) : Prop :=
  ∀ s : State,
    (s.busy = true → issueCommand w s = { s with err := 0x1#4 }) ∧
    (s.busy = false → keyed = true → s.keyValid = false → issueCommand w s = { s with err := 0x3#4 }) ∧
    (s.busy = false → (keyed = true → s.keyValid = true) →
      issueCommand w s =
        { s with
          pend := some { op := i, key := bytesOf s.key, blk := bytesOf s.din, iv := bytesOf s.iv }
          err := 0x0#4, done := false, busy := true }) ∧
    (∀ v : Word, v.extractLsb' 0 4 = w.extractLsb' 0 4 → v.extractLsb' 4 28 ≠ 0#28 →
      (s.busy = true → issueCommand v s = { s with err := 0x1#4 }) ∧
      (s.busy = false → issueCommand v s = { s with err := 0x2#4 }))

/-- The latched key of the most recent completed key-expanding command, kept beside a run: what it is after the step of
`s` when it was `k` before (R30). `CLEAR` and reset forget it. -/
def keyAfterStep (k : Option Block) (s : State) : Option Block :=
  match nextTurn s with
  | .reset => none
  | .engine =>
    if s.busy then
      match s.pend with
      | some p => if expandsKey p.op then some p.key else if p.op = .clear then none else k
      | none => k
    else k
  | .master _ | .idle => k

/-- `KEYVALID` and `RK` agree with that key (R30). -/
def State.HoldsKey (s : State) (k : Option Block) : Prop :=
  s.keyValid = k.isSome ∧ ∀ key, k = some key → s.rk = keyExpansion key

/-- In how many steps a pending command is gone: up to and with the first turn of the engine or of reset. When the
schedule has none the engine moves as soon as it is used up (R132). -/
def stepsToCompletion : List Turn → Nat
  | [] => 1
  | .engine :: _ | .reset :: _ => 1
  | .master _ :: ts | .idle :: ts => stepsToCompletion ts + 1

/-- Whether a reset comes before the engine's next turn: what R132 calls an intervening reset. When the schedule has
neither, the engine moves (log 2). -/
def resetComesFirst : List Turn → Bool
  | [] => false
  | .engine :: _ => false
  | .reset :: _ => true
  | .master _ :: ts | .idle :: ts => resetComesFirst ts

/-- A schedule that gives the engine a turn after at most `left` moves of the others, and after at most `bound` ever
after: what an implementation with `LATENCY = bound` guarantees (R132). -/
def withinLatency (bound : Nat) : Nat → List Turn → Bool
  | _, [] => true
  | _, .engine :: ts | _, .reset :: ts => withinLatency bound bound ts
  | 0, .master _ :: _ | 0, .idle :: _ => false
  | left + 1, .master _ :: ts | left + 1, .idle :: ts => withinLatency bound left ts

/-- One block of a CBC message: the block is put in `DIN`, `CBCDEC` accepted and completed (R141 (d)). -/
def cbcBlock (c : Block) (s : State) : Host.Outcome State Fault Refusal :=
  exec .cbcdec (accept .cbcdec { s with din := wordsOf c })

/-- The blocks of a CBC message in order, with the plaintext blocks read from `DOUT` (R141 (d)). -/
def cbcMessage : List Block → State → Option (List Block × State)
  | [], s => some ([], s)
  | c :: cs, s =>
    match cbcBlock c s with
    | .next t => (cbcMessage cs t).map fun r => (bytesOf t.dout :: r.1, r.2)
    | .fault _ | .refused _ => none

end Sys2Proof.Machine
end

