-- ==== Sys2Proof/Certificates/Slice0/Obligations.lean ====
section
/-! DEFINITION. The statements about the model, for the provers. Each docstring names the rule of the spec it rests on. -/

open Sys2Proof Sys2Proof.Machine

/-! ### Reset -/

/-- R37: reset leaves every register, every internal array and `STATUS` zero, and no pending command. -/
def Obligations.ResetZeroesTheEngine : Prop :=
  (∀ k : Fin 4, State.reset.key[k] = 0#32 ∧ State.reset.iv[k] = 0#32 ∧ State.reset.din[k] = 0#32 ∧
    State.reset.dout[k] = 0#32) ∧
  statusWord State.reset = 0#32 ∧
  State.reset.busy = false ∧ State.reset.done = false ∧ State.reset.keyValid = false ∧ State.reset.err = 0x0#4 ∧
  (∀ b : Fin 176, State.reset.rk[b] = 0#8) ∧
  (∀ i : Fin 16, State.reset.cv[i] = 0#8 ∧ State.reset.st[i] = 0#8) ∧
  State.reset.pend = none

/-- R190: whatever the engine was doing, a reset puts every piece of its state at its reset value in one step; a command
pending then is gone and none of its results is written. That the host's side stays is the model's choice (log 3). -/
def Obligations.PlatformResetAbortsAndZeroes : Prop :=
  ∀ s : State, nextTurn s = .reset →
    step s = .next { State.reset with masters := s.masters, turns := s.turns.tail, replies := s.replies }

/-! ### The invariant -/

/-- R37, R28, R29, R161, R30: the state after reset satisfies the invariant. -/
def Obligations.ResetMeetsTheInvariant : Prop := State.reset.Inv

/-- R28, R29, R30, R161, R130, R37, R140: every step keeps the invariant: `BUSY` iff a command is pending, `BUSY` excludes
`DONE`, no reserved error code, no keyless pending command, a valid schedule is an expansion. That `RK`, `CV`, `ST` and
`DOUT` are zero while `KEYVALID` is 0 rests on R37 and R140: reset and `CLEAR`, which alone clear `KEYVALID`, zero them. -/
def Obligations.EveryStepKeepsTheInvariant : Prop :=
  ∀ s t : State, s.Inv → step s = .next t → t.Inv

/-- R131, R143, R160: from a state that satisfies the invariant no step stops: there is no trap, no fault, no refusal (the
model's one fault is log 9). -/
def Obligations.NoStepStopsUnderTheInvariant : Prop :=
  ∀ s : State, s.Inv → ∃ t, step s = .next t

/-- R30: kept beside any run, the latched key of the most recent completed key-expanding command (forgotten by `CLEAR`
and reset) always agrees with `KEYVALID` and `RK`. -/
def Obligations.ScheduleBelongsToTheLastExpandedKey : Prop :=
  State.reset.HoldsKey none ∧
  ∀ (s t : State) (k : Option Block), s.HoldsKey k → step s = .next t → t.HoldsKey (keyAfterStep k s)

/-! ### Encoding -/

/-- R61: exactly the eight words of the opcode map decode, each to its command. -/
def Obligations.OnlyTheEightWordsDecode : Prop :=
  ∀ v : Word,
    (decode v = .ok .keyexp ↔ v = 0x00000001#32) ∧ (decode v = .ok .ecbenc ↔ v = 0x00000002#32) ∧
    (decode v = .ok .ecbdec ↔ v = 0x00000003#32) ∧ (decode v = .ok .ecbenck ↔ v = 0x00000004#32) ∧
    (decode v = .ok .ecbdeck ↔ v = 0x00000005#32) ∧ (decode v = .ok .cbcinit ↔ v = 0x00000006#32) ∧
    (decode v = .ok .cbcdec ↔ v = 0x00000007#32) ∧ (decode v = .ok .clear ↔ v = 0x00000008#32) ∧
    (v = 0x00000000#32 ∨ 9 ≤ v.toNat → ∃ e, decode v = .error e)

/-- R60, R61, R64: decoding and encoding agree in both directions, on words, on byte strings of any length and on the
opcode table's numbering. The byte order is the model's choice (log 18). -/
def Obligations.DecodeAndEncodeAgree : Prop :=
  ∀ i : Instr, i.wf = true →
    (∀ v, decode v = .ok i ↔ v = encode i) ∧
    (∀ bs, decodeBytes bs = .ok i ↔ bs = [i.op.setWidth 8, 0x00#8, 0x00#8, 0x00#8]) ∧
    (∀ nbits w, decodeTableWord nbits w = some i ↔ nbits ≤ 32 ∧ w % 2 ^ nbits = (encode i).toNat)

/-- R61, R63: words written out from the opcode map and the reserved space decode as it says. -/
def Obligations.SampleWordsDecode : Prop :=
  decode 0x00000001#32 = .ok .keyexp ∧ decode 0x00000003#32 = .ok .ecbdec ∧ decode 0x00000004#32 = .ok .ecbenck ∧
  decode 0x00000007#32 = .ok .cbcdec ∧ decode 0x00000008#32 = .ok .clear ∧
  decode 0x00000000#32 = .error .reservedOp ∧ decode 0x0000000F#32 = .error .reservedOp ∧
  decode 0x00000012#32 = .error .reservedBits ∧ decode 0x80000001#32 = .error .reservedBits

/-! ### The window and the registers -/

/-- R9, R40: an access at a physical address reaches the engine exactly when it lies in the 0x80 bytes from `AES_BASE`,
at the offset `a - AES_BASE`, with the address's own alignment. -/
def Obligations.WindowIsTheRangeFromBase : Prop :=
  ∀ (a size : Nat) (kind : AccessKind),
    (Config.aesBase ≤ a ∧ a < Config.aesBase + 0x80 →
      ∃ off : Offset, accessAt a size kind = some ⟨off, size, kind⟩ ∧ off.toNat = a - Config.aesBase ∧
        off.toNat % 4 = a % 4) ∧
    (¬(Config.aesBase ≤ a ∧ a < Config.aesBase + 0x80) → accessAt a size kind = none)

/-- R43: the byte order of a 16-byte value in four registers, and that packing and unpacking lose nothing. -/
def Obligations.BytePackingIsLittleEndian : Prop :=
  (∀ (x : Block) (k j : Fin 4), (wordsOf x)[k].extractLsb' (8 * j.val) 8 = x[4 * k.val + j.val]) ∧
  (∀ (r : RegBank) (k j : Fin 4), (bytesOf r)[4 * k.val + j.val] = r[k].extractLsb' (8 * j.val) 8) ∧
  (∀ x : Block, bytesOf (wordsOf x) = x) ∧
  (∀ r : RegBank, wordsOf (bytesOf r) = r)

/-- R42: only an aligned 32-bit access is performed; any other is a bus error and changes nothing. -/
def Obligations.OnlyAlignedWordAccessesArePerformed : Prop :=
  ∀ (a : Access) (s : State),
    (a.wf = false → access a s = (s, .busError a.off a.size)) ∧
    (a.wf = true → a.kind = .read → access a s = (s, .data (readReg a.off s))) ∧
    (∀ v, a.wf = true → a.kind = .write v → access a s = (writeReg a.off v s, .done))

/-- R44: what a read returns at every offset, and that it changes nothing. -/
def Obligations.ReadsFollowTheRegisterMap : Prop :=
  ∀ s : State,
    readReg 0x04#7 s =
      (s.err ++ 0#1 ++ BitVec.ofBool s.keyValid ++ BitVec.ofBool s.done ++ BitVec.ofBool s.busy).setWidth 32 ∧
    (∀ k : Fin 4, readReg (BitVec.ofNat 7 (0x30 + 4 * k.val)) s = s.din[k]) ∧
    (∀ k : Fin 4, readReg (BitVec.ofNat 7 (0x40 + 4 * k.val)) s = s.dout[k]) ∧
    (∀ off : Offset, off ≠ 0x04#7 →
      (∀ k : Fin 4, off ≠ BitVec.ofNat 7 (0x30 + 4 * k.val) ∧ off ≠ BitVec.ofNat 7 (0x40 + 4 * k.val)) →
      readReg off s = 0#32) ∧
    (∀ a : Access, a.kind = .read → (access a s).1 = s)

/-- R27: the layout of `STATUS`, its reset value, and that host writes to it are ignored. -/
def Obligations.StatusLayout : Prop :=
  (∀ s : State,
    (readReg 0x04#7 s).getLsbD 0 = s.busy ∧ (readReg 0x04#7 s).getLsbD 1 = s.done ∧
    (readReg 0x04#7 s).getLsbD 2 = s.keyValid ∧ (readReg 0x04#7 s).getLsbD 3 = false ∧
    (readReg 0x04#7 s).extractLsb' 4 4 = s.err ∧ (∀ i, 8 ≤ i → (readReg 0x04#7 s).getLsbD i = false) ∧
    (∀ v, writeReg 0x04#7 v s = s)) ∧
  readReg 0x04#7 State.reset = 0#32

/-- R45: what a write does at every offset; writes to `KEY`, `IV` and `DIN` are performed whatever `BUSY` is and leave a
pending command as it is. -/
def Obligations.WritesFollowTheRegisterMap : Prop :=
  ∀ (s : State) (v : Word),
    writeReg 0x00#7 v s = issueCommand v s ∧
    (∀ k : Fin 4, writeReg (BitVec.ofNat 7 (0x10 + 4 * k.val)) v s = { s with key := s.key.set k v }) ∧
    (∀ k : Fin 4, writeReg (BitVec.ofNat 7 (0x20 + 4 * k.val)) v s = { s with iv := s.iv.set k v }) ∧
    (∀ k : Fin 4, writeReg (BitVec.ofNat 7 (0x30 + 4 * k.val)) v s = { s with din := s.din.set k v }) ∧
    (∀ off : Offset, off ≠ 0x00#7 →
      (∀ k : Fin 4, off ≠ BitVec.ofNat 7 (0x10 + 4 * k.val) ∧ off ≠ BitVec.ofNat 7 (0x20 + 4 * k.val) ∧
        off ≠ BitVec.ofNat 7 (0x30 + 4 * k.val)) →
      writeReg off v s = s)

/-- R46: reads have no side effect, writes to `KEY`, `IV` and `DIN` are idempotent, a `CMD` write is not (after any accepted
one the same write again is rejected with `BUSY` and leaves the first command pending), and `STATUS`, `DOUT` and reserved
offsets ignore writes. -/
def Obligations.OnlyCmdWritesAreNotIdempotent : Prop :=
  (∀ (a : Access) (s : State), a.kind = .read → (access a s).1 = s) ∧
  (∀ (off : Offset) (v : Word) (s : State), off ≠ 0x00#7 →
    writeReg off v (writeReg off v s) = writeReg off v s) ∧
  (∃ (v : Word) (s : State), writeReg 0x00#7 v (writeReg 0x00#7 v s) ≠ writeReg 0x00#7 v s) ∧
  (∀ (v : Word) (i : Instr) (s : State), decode v = .ok i → s.accepts i →
    (writeReg 0x00#7 v s).pend = some (latch i s) ∧ (writeReg 0x00#7 v s).err = 0x0#4 ∧
    writeReg 0x00#7 v (writeReg 0x00#7 v s) = { writeReg 0x00#7 v s with err := 0x1#4 }) ∧
  (∀ (off : Offset) (v : Word) (s : State),
    off = 0x04#7 ∨ off = 0x08#7 ∨ off = 0x0C#7 ∨ 0x40 ≤ off.toNat → writeReg off v s = s)

/-- R22, R23, R33, R34, R35, R36: what a read returns does not depend on `KEY`, `IV`, `RK`, `CV`, `ST` or `PEND`. -/
def Obligations.HiddenStateIsNeverReadBack : Prop :=
  ∀ (a : Access) (s s' : State), a.kind = .read →
    s'.din = s.din → s'.dout = s.dout → s'.busy = s.busy → s'.done = s.done → s'.keyValid = s.keyValid →
    s'.err = s.err → (access a s').2 = (access a s).2

/-! ### Steps -/

/-- R131, R130: a step runs the decoded command. A command word placed to be run next is run by `exec` on the state that
accepted it; and when a master's `CMD` write of a word that decodes to `i` is accepted and the engine moves next, the
two steps are the acceptance and `exec i`. How a word is placed is the model's choice (log 4), so is the list of turns
(log 2). -/
def Obligations.StepRunsTheDecodedCommand : Prop :=
  (∀ (s : State) (i : Instr), i.wf = true →
    step (s.withFetchWord 32 (encode i).toNat) = exec i { accept i s with turns := s.turns }) ∧
  (∀ (s : State) (m : Nat) (v : Word) (rest : List BusOp) (ts : List Turn) (i : Instr),
    s.turns = .master m :: .engine :: ts → s.masters.getD m [] = .wr 0x00#7 v :: rest →
    decode v = .ok i → s.accepts i →
    ∃ t, step s = .next t ∧
      t = { accept i s with
            masters := s.masters.set m rest, turns := .engine :: ts, replies := s.replies ++ [(m, .done)] } ∧
      step t = exec i { t with turns := ts })

/-- R48, R49: a master's turn performs exactly the one access at the head of its program and records its answer; every
other master's program is as it was. The programs and the list of answers are the model's own (log 3). -/
def Obligations.MasterTurnPerformsOneAccess : Prop :=
  ∀ (s : State) (m : Nat) (a : Access) (rest : List BusOp),
    nextTurn s = .master m → s.masters.getD m [] = .access a :: rest →
    ∃ t, step s = .next t ∧
      t = { (access a s).1 with
            masters := s.masters.set m rest, turns := s.turns.tail, replies := s.replies ++ [(m, (access a s).2)] } ∧
      t.masters.getD m [] = rest ∧ (∀ n, n ≠ m → t.masters.getD n [] = s.masters.getD n [])

/-- R66: a `POLL` line is a read; it is repeated until the masked result equals the value, and changes nothing else.
That the unfinished line stays at the head of the program is the model's form of it (log 11). -/
def Obligations.PollRepeatsItsRead : Prop :=
  ∀ (s : State) (m : Nat) (off : Offset) (mask val : Word) (rest : List BusOp),
    nextTurn s = .master m → s.masters.getD m [] = .poll off mask val :: rest → off.toNat % 4 = 0 →
    (readReg off s &&& mask = val →
      step s = .next { s with masters := s.masters.set m rest, turns := s.turns.tail,
                              replies := s.replies ++ [(m, .data (readReg off s))] }) ∧
    (readReg off s &&& mask ≠ val →
      step s = .next { s with turns := s.turns.tail, replies := s.replies ++ [(m, .data (readReg off s))] })

/-! ### Issue -/

/-- R130: `IssueCommand` on every word: the three rejections in their order, each writing `ERR` and nothing else, and
acceptance, which latches the operands. -/
def Obligations.IssueAcceptsOrRejects : Prop :=
  ∀ (v : Word) (s : State),
    (s.busy = true → issueCommand v s = { s with err := 0x1#4 }) ∧
    (s.busy = false → (∀ i, decode v ≠ .ok i) → issueCommand v s = { s with err := 0x2#4 }) ∧
    (∀ i, s.busy = false → decode v = .ok i →
      ((i = .ecbenc ∨ i = .ecbdec ∨ i = .cbcdec) ∧ s.keyValid = false →
        issueCommand v s = { s with err := 0x3#4 }) ∧
      (¬((i = .ecbenc ∨ i = .ecbdec ∨ i = .cbcdec) ∧ s.keyValid = false) →
        i.op = v.extractLsb' 0 4 ∧
        issueCommand v s =
          { s with
            pend := some { op := i, key := bytesOf s.key, blk := bytesOf s.din, iv := bytesOf s.iv }
            err := 0x0#4, done := false, busy := true }))

/-- R162, R163, R164: a command write that is not accepted changes `ERR` alone, and which code it leaves; an access that
is not an aligned 32-bit one changes not even that. The programs, the turns and the answers are the model's own (log 3), and
that the master goes on after a bus error is its choice (log 10). -/
def Obligations.RejectedCommandWritesArePrecise : Prop :=
  (∀ (s : State) (m : Nat) (v : Word) (rest : List BusOp),
    nextTurn s = .master m → s.masters.getD m [] = .wr 0x00#7 v :: rest →
    (∀ i, decode v = .ok i → ¬s.accepts i) →
    ∃ e : BitVec 4,
      step s = .next { s with err := e, masters := s.masters.set m rest, turns := s.turns.tail,
                              replies := s.replies ++ [(m, .done)] } ∧
      (s.busy = true → e = 0x1#4) ∧
      (s.busy = false → (∀ i, decode v ≠ .ok i) → e = 0x2#4) ∧
      (s.busy = false → (∃ i, decode v = .ok i) → e = 0x3#4)) ∧
  (∀ (s : State) (m : Nat) (a : Access) (rest : List BusOp),
    nextTurn s = .master m → s.masters.getD m [] = .access a :: rest → a.wf = false →
    step s = .next { s with masters := s.masters.set m rest, turns := s.turns.tail,
                            replies := s.replies ++ [(m, .busError a.off a.size)] })

/-! ### The commands: how a write of the word is answered, and the whole next state of the completion -/

/-- R133: `KEYEXP`. -/
def Obligations.KeyexpExpandsTheLatchedKey : Prop :=
  AnsweredAtIssue .keyexp 0x00000001#32 false ∧
  ∀ (s : State) (p : Pending), s.pend = some p →
    exec .keyexp s =
      .next { s with rk := keyExpansion p.key, keyValid := true, pend := none, busy := false, done := true }

/-- R134: `ECBENC`. -/
def Obligations.EcbencEncryptsWithThePreparedKey : Prop :=
  AnsweredAtIssue .ecbenc 0x00000002#32 true ∧
  ∀ (s : State) (p : Pending), s.pend = some p →
    exec .ecbenc s =
      .next { s with st := cipher p.blk s.rk, dout := wordsOf (cipher p.blk s.rk), pend := none, busy := false,
                     done := true }

/-- R135: `ECBDEC`. -/
def Obligations.EcbdecDecryptsWithThePreparedKey : Prop :=
  AnsweredAtIssue .ecbdec 0x00000003#32 true ∧
  ∀ (s : State) (p : Pending), s.pend = some p →
    exec .ecbdec s =
      .next { s with st := invCipher p.blk s.rk, dout := wordsOf (invCipher p.blk s.rk), pend := none,
                     busy := false, done := true }

/-- R136: `ECBENCK`. -/
def Obligations.EcbenckExpandsThenEncrypts : Prop :=
  AnsweredAtIssue .ecbenck 0x00000004#32 false ∧
  ∀ (s : State) (p : Pending), s.pend = some p →
    exec .ecbenck s =
      .next { s with rk := keyExpansion p.key, keyValid := true, st := cipher p.blk (keyExpansion p.key),
                     dout := wordsOf (cipher p.blk (keyExpansion p.key)), pend := none, busy := false,
                     done := true }

/-- R137: `ECBDECK`. -/
def Obligations.EcbdeckExpandsThenDecrypts : Prop :=
  AnsweredAtIssue .ecbdeck 0x00000005#32 false ∧
  ∀ (s : State) (p : Pending), s.pend = some p →
    exec .ecbdeck s =
      .next { s with rk := keyExpansion p.key, keyValid := true, st := invCipher p.blk (keyExpansion p.key),
                     dout := wordsOf (invCipher p.blk (keyExpansion p.key)), pend := none, busy := false,
                     done := true }

/-- R138: `CBCINIT`. -/
def Obligations.CbcinitExpandsAndLoadsTheIv : Prop :=
  AnsweredAtIssue .cbcinit 0x00000006#32 false ∧
  ∀ (s : State) (p : Pending), s.pend = some p →
    exec .cbcinit s =
      .next { s with rk := keyExpansion p.key, keyValid := true, cv := p.iv, pend := none, busy := false,
                     done := true }

/-- R139: `CBCDEC`: `DOUT` is the XOR with the chaining value from before, `ST` the value before the XOR. -/
def Obligations.CbcdecDecryptsAndAdvancesTheChain : Prop :=
  AnsweredAtIssue .cbcdec 0x00000007#32 true ∧
  ∀ (s : State) (p : Pending), s.pend = some p →
    ∃ x : Block, (∀ i : Fin 16, x[i] = (invCipher p.blk s.rk)[i] ^^^ s.cv[i]) ∧
      exec .cbcdec s =
        .next { s with st := invCipher p.blk s.rk, dout := wordsOf x, cv := p.blk, pend := none, busy := false,
                       done := true }

/-- R140: `CLEAR`: completed right after its acceptance it leaves the reset state but for `DONE`. In any state with a
pending record it leaves the reset state but for `DONE` and `ERR`: that `ERR` stays as the last `CMD` write left it is the
model's choice (log 16). -/
def Obligations.ClearZeroisesEverything : Prop :=
  AnsweredAtIssue .clear 0x00000008#32 false ∧
  (∀ (s : State) (p : Pending), s.pend = some p →
    exec .clear s =
      .next { State.reset with done := true, err := s.err, masters := s.masters, turns := s.turns,
                               replies := s.replies }) ∧
  (∀ s : State,
    exec .clear (accept .clear s) =
      .next { State.reset with done := true, masters := s.masters, turns := s.turns, replies := s.replies })

/-- R131: with nothing pending no command completes: each meaning stops by name (log 9). -/
def Obligations.CompletionNeedsAPendingCommand : Prop :=
  ∀ (i : Instr) (s : State), s.pend = none → exec i s = .fault .noPendingCommand

/-! ### What a completion may write, and what else may write it -/

/-- R65: each completion writes only its row of the table, and `BUSY`, `DONE` and `PEND`. -/
def Obligations.CompletionWritesOnlyItsRow : Prop :=
  ∀ (s t : State) (p : Pending), s.completes p → step s = .next t →
    t.pend = none ∧ t.busy = false ∧ t.done = true ∧ t.err = s.err ∧
    (p.op ≠ .clear → t.key = s.key ∧ t.iv = s.iv ∧ t.din = s.din) ∧
    (p.op ≠ .clear → expandsKey p.op = false → t.rk = s.rk ∧ t.keyValid = s.keyValid) ∧
    (p.op ≠ .clear → producesBlock p.op = false → t.st = s.st ∧ t.dout = s.dout) ∧
    (p.op ≠ .clear → p.op ≠ .cbcinit → p.op ≠ .cbcdec → t.cv = s.cv) ∧
    t.masters = s.masters ∧ t.replies = s.replies ∧ t.turns = s.turns.tail

/-- R25, R30, R33, R34, R35: only a completion or a reset changes `DOUT`, `RK`, `CV`, `ST` or `KEYVALID`. -/
def Obligations.ResultsChangeOnlyAtCompletionOrReset : Prop :=
  ∀ s t : State, step s = .next t → nextTurn s ≠ .reset → (∀ p, ¬s.completes p) →
    t.dout = s.dout ∧ t.rk = s.rk ∧ t.cv = s.cv ∧ t.st = s.st ∧ t.keyValid = s.keyValid

/-- R22, R23, R24: `KEY`, `IV` and `DIN` change only by a host write to one of their words, by `CLEAR` and by reset. -/
def Obligations.OperandRegistersChangeOnlyByHostWriteOrClear : Prop :=
  ∀ s t : State, step s = .next t → nextTurn s ≠ .reset → (∀ p, s.completes p → p.op ≠ .clear) →
    (t.key = s.key ∨ ∃ m v, ∃ k : Fin 4,
      s.writes m (BitVec.ofNat 7 (0x10 + 4 * k.val)) v ∧ t.key = s.key.set k v) ∧
    (t.iv = s.iv ∨ ∃ m v, ∃ k : Fin 4,
      s.writes m (BitVec.ofNat 7 (0x20 + 4 * k.val)) v ∧ t.iv = s.iv.set k v) ∧
    (t.din = s.din ∨ ∃ m v, ∃ k : Fin 4,
      s.writes m (BitVec.ofNat 7 (0x30 + 4 * k.val)) v ∧ t.din = s.din.set k v)

/-- R28: what sets and what clears `BUSY`, and that nothing else writes it. -/
def Obligations.BusyFollowsAcceptanceAndCompletion : Prop :=
  (∀ s t : State, step s = .next t → s.busy = false → t.busy = true →
    ∃ m v i, s.presents m v ∧ decode v = .ok i ∧ s.accepts i ∧ t.pend = some (latch i s)) ∧
  (∀ (s : State) (m : Nat) (v : Word) (i : Instr), s.presents m v → decode v = .ok i → s.accepts i →
    ∃ t, step s = .next t ∧ t.busy = true) ∧
  (∀ s t : State, step s = .next t → s.busy = true → t.busy = false →
    nextTurn s = .reset ∨ ∃ p, s.completes p) ∧
  (∀ (s t : State) (p : Pending), s.completes p → step s = .next t → t.busy = false) ∧
  (∀ s t : State, nextTurn s = .reset → step s = .next t → t.busy = false) ∧
  (∀ s : State, s.Inv → (s.busy = true ↔ s.pend ≠ none))

/-- R29: what clears and what sets `DONE`; a rejection leaves it; `BUSY = 1` implies `DONE = 0`. -/
def Obligations.DoneFollowsCompletion : Prop :=
  (∀ (s : State) (m : Nat) (v : Word) (i : Instr), s.presents m v → decode v = .ok i → s.accepts i →
    ∃ t, step s = .next t ∧ t.done = false) ∧
  (∀ (s t : State) (p : Pending), s.completes p → step s = .next t → t.done = true) ∧
  (∀ s t : State, nextTurn s = .reset → step s = .next t → t.done = false) ∧
  (∀ s t : State, step s = .next t → nextTurn s ≠ .reset → (∀ p, ¬s.completes p) →
    (∀ m v i, s.presents m v → decode v = .ok i → ¬s.accepts i) → t.done = s.done) ∧
  State.reset.done = false ∧
  (∀ s : State, s.Inv → s.busy = true → s.done = false)

/-- R31: `ERR` is written by every `CMD` write and by reset, and by nothing else. -/
def Obligations.ErrDescribesTheLastCommandWrite : Prop :=
  (∀ s t : State, step s = .next t → nextTurn s ≠ .reset → (∀ m v, ¬s.presents m v) → t.err = s.err) ∧
  (∀ s t : State, nextTurn s = .reset → step s = .next t → t.err = 0x0#4) ∧
  (∀ (s : State) (m : Nat) (v : Word), s.presents m v →
    ∃ t, step s = .next t ∧
      (s.busy = true → t.err = 0x1#4) ∧
      (s.busy = false → (∀ i, decode v ≠ .ok i) → t.err = 0x2#4) ∧
      (∀ i, s.busy = false → decode v = .ok i → needsKey i = true → s.keyValid = false → t.err = 0x3#4) ∧
      (∀ i, decode v = .ok i → s.accepts i → t.err = 0x0#4))

/-- R195, R36: the completion of a pending command does not depend on `KEY`, `IV` or `DIN`, and leaves what was written
there meanwhile, except that `CLEAR` zeroes it. -/
def Obligations.OperandWritesNeverReachAPendingCommand : Prop :=
  ∀ (i : Instr) (s t : State) (key iv din : RegBank), exec i s = .next t →
    (i ≠ .clear →
      exec i { s with key := key, iv := iv, din := din } = .next { t with key := key, iv := iv, din := din }) ∧
    (i = .clear → exec i { s with key := key, iv := iv, din := din } = .next t ∧
      t.key = zeroBank ∧ t.iv = zeroBank ∧ t.din = zeroBank)

/-- R65, R104, R143: each result is a function of the operands the table names: two states that agree on `PEND`, on `RK`
where the command does not expand a key, and on `CV` for `CBCDEC`, give the same schedule, block, and chaining value. -/
def Obligations.ResultsDependOnlyOnTheOperands : Prop :=
  ∀ (i : Instr) (s s' t t' : State), s'.pend = s.pend → exec i s = .next t → exec i s' = .next t' →
    (expandsKey i = true → t'.rk = t.rk ∧ t'.keyValid = t.keyValid) ∧
    (producesBlock i = true → (expandsKey i = false → s'.rk = s.rk) → t'.st = t.st) ∧
    (producesBlock i = true → (expandsKey i = false → s'.rk = s.rk) → (i = .cbcdec → s'.cv = s.cv) →
      t'.dout = t.dout) ∧
    (i = .cbcinit ∨ i = .cbcdec → t'.cv = t.cv)

/-- R132: under the invariant a pending command stays pending, unchanged, and `DOUT` keeps its value, until the first turn
of the engine or of reset. If no reset comes first, the next step is the command's completion, and `DONE` is 1 after it;
if one does, the engine is in its reset state. A schedule within a latency bound makes that happen within the bound.
That the engine moves when the schedule is used up is the model's choice (log 2). -/
def Obligations.EveryAcceptedCommandCompletes : Prop :=
  (∀ s : State, s.Inv → s.busy = true →
    (∀ n, n < stepsToCompletion s.turns →
      ∃ u, Host.Core.run Sys2Proof.core n s = .next u ∧ u.busy = true ∧ u.pend = s.pend ∧ u.dout = s.dout) ∧
    (∃ p u t, s.pend = some p ∧
      Host.Core.run Sys2Proof.core (stepsToCompletion s.turns - 1) s = .next u ∧ u.pend = some p ∧
      Host.Core.run Sys2Proof.core (stepsToCompletion s.turns) s = .next t ∧ t.busy = false ∧ t.pend = none ∧
      (resetComesFirst s.turns = false → exec p.op (takeTurn u) = .next t ∧ t.done = true) ∧
      (resetComesFirst s.turns = true →
        t = { State.reset with masters := u.masters, turns := u.turns.tail, replies := u.replies }))) ∧
  (∀ (bound left : Nat) (ts : List Turn), withinLatency bound left ts = true → stepsToCompletion ts ≤ left + 1)

/-! ### The Galois-field unit and the tables -/

/-- R81: `xtime` bit by bit, that it is the field product by {02}, that it is linear, and its corner cases. -/
def Obligations.XtimeDoublesInTheField : Prop :=
  (∀ b : Byte, b.getLsbD 7 = false → xtime b = b <<< 1) ∧
  (∀ b : Byte, b.getLsbD 7 = true → xtime b = (b <<< 1) ^^^ 0x1B#8) ∧
  (∀ b : Byte, xtime b = fieldMul b 0x02#8) ∧
  (∀ a b : Byte, xtime (a ^^^ b) = xtime a ^^^ xtime b) ∧
  xtime 0x00#8 = 0x00#8 ∧ xtime 0x80#8 = 0x1B#8 ∧ xtime 0xFF#8 = 0xE5#8 ∧ xtime 0x7F#8 = 0xFE#8 ∧
  xtime 0x57#8 = 0xAE#8 ∧ xtime 0xAE#8 = 0x47#8

/-- R82, R83: the multiply unit gives the field product by the multiplier's low five bits, so the exact product for every
multiplier below 0x20, the engine's coefficients among them. For a multiplier of 0x20 or more that is R82's reading of
its source, which no command can observe (log 13). -/
def Obligations.GfMulIsTheFieldProduct : Prop :=
  (∀ a y : Byte, gfMul a y = fieldMul a (y &&& 0x1F#8)) ∧
  (∀ a y : Byte, y = 0x01#8 ∨ y = 0x02#8 ∨ y = 0x03#8 ∨ y = 0x09#8 ∨ y = 0x0B#8 ∨ y = 0x0D#8 ∨ y = 0x0E#8 →
    gfMul a y = fieldMul a y) ∧
  (∀ a : Byte, gfMul a 0x00#8 = 0x00#8 ∧ gfMul a 0x01#8 = a) ∧
  (∀ y : Byte, gfMul 0x00#8 y = 0x00#8)

/-- R84: the S-box table is the algebraic one: the entry of a byte other than zero is the affine map of a field inverse of
it, the entry of zero the affine map of zero; and the table has no fixed and no opposite fixed point. -/
def Obligations.SboxIsTheAlgebraicOne : Prop :=
  (∀ x : Byte, x ≠ 0x00#8 → ∃ b : Byte, fieldMul x b = 0x01#8 ∧ sbox x = sboxAffine b) ∧
  sbox 0x00#8 = sboxAffine 0x00#8 ∧
  (∀ x : Byte, sbox x ≠ x ∧ sbox x ≠ x ^^^ 0xFF#8) ∧
  sbox 0x00#8 = 0x63#8 ∧ sbox 0xFF#8 = 0x16#8 ∧ sbox 0x53#8 = 0xED#8

/-- R86: the two tables invert each other on every byte. -/
def Obligations.SboxTablesAreInverse : Prop :=
  (∀ x : Byte, invSbox (sbox x) = x) ∧ (∀ x : Byte, sbox (invSbox x) = x) ∧
  invSbox 0x63#8 = 0x00#8 ∧ invSbox 0x00#8 = 0x52#8 ∧ invSbox 0xFF#8 = 0x7D#8 ∧ invSbox 0xED#8 = 0x53#8

/-- R87: the round constants 1 to 10 are the doublings of 0x01; index 0 is left open. -/
def Obligations.RoundConstantsAreDoublings : Prop :=
  (∀ i : Fin 10, rcon (i.val + 1) = Nat.iterate xtime i.val 0x01#8) ∧
  rcon 1 = 0x01#8 ∧ rcon 9 = 0x1B#8 ∧ rcon 10 = 0x36#8

/-! ### The key expansion -/

/-- R100, R101: `RotWord` and `SubWord` byte by byte, with their corner cases. -/
def Obligations.RotWordAndSubWord : Prop :=
  (∀ t : Col, (rotWord t)[0] = t[1] ∧ (rotWord t)[1] = t[2] ∧ (rotWord t)[2] = t[3] ∧ (rotWord t)[3] = t[0]) ∧
  (∀ b : Byte, rotWord #v[b, b, b, b] = #v[b, b, b, b]) ∧
  (∀ t : Col, rotWord (rotWord (rotWord (rotWord t))) = t) ∧
  (∀ (t : Col) (j : Fin 4), (subWord t)[j] = sbox t[j]) ∧
  subWord #v[0x00#8, 0x00#8, 0x00#8, 0x00#8] = #v[0x63#8, 0x63#8, 0x63#8, 0x63#8]

/-- R102: the first sixteen bytes are the key, and every later word is the recurrence, byte by byte. -/
def Obligations.KeyExpansionSatisfiesTheRecurrence : Prop :=
  ∀ key : Block,
    (∀ j : Fin 16, (keyExpansion key)[j.val] = key[j]) ∧
    (∀ (n : Fin 40) (j : Fin 4),
      (keyExpansion key)[4 * (n.val + 4) + j.val] =
        (keyExpansion key)[4 * n.val + j.val] ^^^
          (if n.val % 4 = 0 then
            (subWord (rotWord (scheduleWord (keyExpansion key) ⟨n.val + 3, by omega⟩)))[j] ^^^
              (if j = 0 then rcon ((n.val + 4) / 4) else 0x00#8)
          else (keyExpansion key)[4 * (n.val + 3) + j.val]))

/-- R103: round key `r` is bytes `16r` to `16r+15`, that is words `4r` to `4r+3`, round key 0 is the key, and AddRoundKey
XORs exactly that slice into the state, as R103 quotes its source ("XORed into the state once per round"). -/
def Obligations.RoundKeysAreSlicesOfTheSchedule : Prop :=
  (∀ (rk : Schedule) (r : Fin 11) (i : Fin 16), (roundKey rk r)[i] = rk[16 * r.val + i.val]) ∧
  (∀ (rk : Schedule) (r : Fin 11) (c : Fin 4),
    column (roundKey rk r) c = scheduleWord rk ⟨4 * r.val + c.val, by omega⟩) ∧
  (∀ key : Block, roundKey (keyExpansion key) 0 = key) ∧
  (∀ (rk : Schedule) (r : Fin 11) (s : Block), addRoundKey rk r s = xorBlock s (roundKey rk r))

/-! ### The pipelines -/

/-- R110, R120: SubBytes and InvSubBytes act byte by byte and invert each other. -/
def Obligations.SubBytesStepsAreInverse : Prop :=
  (∀ (s : Block) (i : Fin 16), (subBytes s)[i] = sbox s[i] ∧ (invSubBytes s)[i] = invSbox s[i]) ∧
  (∀ s : Block, invSubBytes (subBytes s) = s ∧ subBytes (invSubBytes s) = s) ∧
  subBytes zeroBlock = Vector.replicate 16 0x63#8 ∧ invSubBytes (Vector.replicate 16 0x63#8) = zeroBlock

/-- R111: row `r` is rotated left by `r`, as a permutation of byte indices too, with the rule's corner cases. -/
def Obligations.ShiftRowsRotatesLeft : Prop :=
  ∀ s : Block,
    (∀ r c : Fin 4, (shiftRows s)[r.val + 4 * c.val] = s[r.val + 4 * (c + r).val]) ∧
    shiftRows s = #v[s[0], s[5], s[10], s[15], s[4], s[9], s[14], s[3], s[8], s[13], s[2], s[7], s[12], s[1], s[6],
      s[11]] ∧
    ((∀ r c : Fin 4, s[r.val + 4 * c.val] = s[r.val]) → shiftRows s = s) ∧
    shiftRows (shiftRows (shiftRows (shiftRows s))) = s

/-- R121: row `r` is rotated right by `r`, as a permutation of byte indices too; ShiftRows and InvShiftRows invert each
other. -/
def Obligations.InvShiftRowsRotatesRight : Prop :=
  ∀ s : Block,
    (∀ r c : Fin 4, (invShiftRows s)[r.val + 4 * c.val] = s[r.val + 4 * (c - r).val]) ∧
    invShiftRows s = #v[s[0], s[13], s[10], s[7], s[4], s[1], s[14], s[11], s[8], s[5], s[2], s[15], s[12], s[9], s[6],
      s[3]] ∧
    ((∀ r c : Fin 4, s[r.val + 4 * c.val] = s[r.val]) → invShiftRows s = s) ∧
    invShiftRows (shiftRows s) = s ∧ shiftRows (invShiftRows s) = s

/-- R112: MixColumns multiplies each column by the circulant matrix {02, 03, 01, 01} in the field; its corner cases and
its linearity. -/
def Obligations.MixColumnsIsTheCirculantMatrix : Prop :=
  (∀ (s : Block) (c : Fin 4),
    let a := column s c
    column (mixColumns s) c =
      #v[fieldMul a[0] 0x02#8 ^^^ fieldMul a[1] 0x03#8 ^^^ a[2] ^^^ a[3],
         a[0] ^^^ fieldMul a[1] 0x02#8 ^^^ fieldMul a[2] 0x03#8 ^^^ a[3],
         a[0] ^^^ a[1] ^^^ fieldMul a[2] 0x02#8 ^^^ fieldMul a[3] 0x03#8,
         fieldMul a[0] 0x03#8 ^^^ a[1] ^^^ a[2] ^^^ fieldMul a[3] 0x02#8]) ∧
  (∀ b : Byte, mixColumn #v[b, b, b, b] = #v[b, b, b, b]) ∧
  mixColumn #v[0x80#8, 0x00#8, 0x00#8, 0x00#8] = #v[0x1B#8, 0x80#8, 0x80#8, 0x9B#8] ∧
  mixColumn #v[0xDB#8, 0x13#8, 0x53#8, 0x45#8] = #v[0x8E#8, 0x4D#8, 0xA1#8, 0xBC#8] ∧
  (∀ a b : Block, mixColumns (xorBlock a b) = xorBlock (mixColumns a) (mixColumns b))

/-- R122: InvMixColumns multiplies each column by the circulant matrix {0E, 0B, 0D, 09} in the field, and MixColumns and
InvMixColumns invert each other. -/
def Obligations.InvMixColumnsInvertsMixColumns : Prop :=
  (∀ (s : Block) (c : Fin 4),
    let a := column s c
    column (invMixColumns s) c =
      #v[fieldMul a[0] 0x0E#8 ^^^ fieldMul a[1] 0x0B#8 ^^^ fieldMul a[2] 0x0D#8 ^^^ fieldMul a[3] 0x09#8,
         fieldMul a[0] 0x09#8 ^^^ fieldMul a[1] 0x0E#8 ^^^ fieldMul a[2] 0x0B#8 ^^^ fieldMul a[3] 0x0D#8,
         fieldMul a[0] 0x0D#8 ^^^ fieldMul a[1] 0x09#8 ^^^ fieldMul a[2] 0x0E#8 ^^^ fieldMul a[3] 0x0B#8,
         fieldMul a[0] 0x0B#8 ^^^ fieldMul a[1] 0x0D#8 ^^^ fieldMul a[2] 0x09#8 ^^^ fieldMul a[3] 0x0E#8]) ∧
  (∀ s : Block, invMixColumns (mixColumns s) = s ∧ mixColumns (invMixColumns s) = s) ∧
  (∀ b : Byte, invMixColumn #v[b, b, b, b] = #v[b, b, b, b]) ∧
  invMixColumn #v[0x1B#8, 0x80#8, 0x80#8, 0x9B#8] = #v[0x80#8, 0x00#8, 0x00#8, 0x00#8] ∧
  invMixColumn #v[0x8E#8, 0x4D#8, 0xA1#8, 0xBC#8] = #v[0xDB#8, 0x13#8, 0x53#8, 0x45#8]

/-- R113: AddRoundKey byte by byte; it is its own inverse, and the identity under a zero schedule. -/
def Obligations.AddRoundKeyIsItsOwnInverse : Prop :=
  (∀ (rk : Schedule) (r : Fin 11) (s : Block) (i : Fin 16),
    (addRoundKey rk r s)[i] = s[i] ^^^ rk[16 * r.val + i.val]) ∧
  (∀ (rk : Schedule) (r : Fin 11) (s : Block), addRoundKey rk r (addRoundKey rk r s) = s) ∧
  (∀ (r : Fin 11) (s : Block), addRoundKey zeroSchedule r s = s)

/-- R114: the forward cipher is the eleven states of its rounds. -/
def Obligations.CipherIsElevenRounds : Prop :=
  ∀ (blk : Block) (rk : Schedule), ∃ st : Fin 11 → Block,
    st 0 = addRoundKey rk 0 blk ∧
    (∀ r : Fin 11, 1 ≤ r.val → r.val ≤ 9 →
      st r = addRoundKey rk r (mixColumns (shiftRows (subBytes (st (r - 1)))))) ∧
    st 10 = addRoundKey rk 10 (shiftRows (subBytes (st 9))) ∧
    cipher blk rk = st 10

/-- R123: the inverse cipher is the eleven states of its rounds, from 10 down to 0. -/
def Obligations.InvCipherIsElevenRounds : Prop :=
  ∀ (blk : Block) (rk : Schedule), ∃ st : Fin 11 → Block,
    st 10 = addRoundKey rk 10 blk ∧
    (∀ r : Fin 11, 1 ≤ r.val → r.val ≤ 9 →
      st r = invMixColumns (addRoundKey rk r (invSubBytes (invShiftRows (st (r + 1)))))) ∧
    st 0 = addRoundKey rk 0 (invSubBytes (invShiftRows (st 1))) ∧
    invCipher blk rk = st 0

/-- R124: the inverse pipeline inverts the forward one, for every key and block, and the other way round for every block
and every schedule. -/
def Obligations.InverseCipherInvertsCipher : Prop :=
  (∀ key blk : Block, invCipher (cipher blk (keyExpansion key)) (keyExpansion key) = blk) ∧
  (∀ (blk : Block) (rk : Schedule), cipher (invCipher blk rk) rk = blk)

/-! ### Sequences of commands -/

/-- R135, R124: `ECBENC`, the result copied from `DOUT` to `DIN`, then `ECBDEC` under the same prepared key, gives back
the four words of the block; so does the pair the other way round, and the one-shot pair with one `KEY`. -/
def Obligations.EncryptThenDecryptReturnsTheBlock : Prop :=
  (∀ s : State, ∃ t u,
    exec .ecbenc (accept .ecbenc s) = .next t ∧
    exec .ecbdec (accept .ecbdec { t with din := t.dout }) = .next u ∧ u.dout = s.din ∧ u.rk = s.rk) ∧
  (∀ s : State, ∃ t u,
    exec .ecbdec (accept .ecbdec s) = .next t ∧
    exec .ecbenc (accept .ecbenc { t with din := t.dout }) = .next u ∧ u.dout = s.din ∧ u.rk = s.rk) ∧
  (∀ s : State, ∃ t u,
    exec .ecbenck (accept .ecbenck s) = .next t ∧
    exec .ecbdeck (accept .ecbdeck { t with din := t.dout }) = .next u ∧ u.dout = s.din ∧
    u.rk = keyExpansion (bytesOf s.key))

/-- R139, R141 (d): decrypting a message block by block, plaintext block `b` is the inverse cipher of ciphertext block `b`
XORed with ciphertext block `b - 1`, or with the chaining value from before for the first, and the chaining value ends
as the last ciphertext block. -/
def Obligations.CbcMessageIsChained : Prop :=
  ∀ (cs : List Block) (s : State), ∃ ps t,
    cbcMessage cs s = some (ps, t) ∧ ps.length = cs.length ∧
    (∀ b (hp : b < ps.length) (hc : b < cs.length),
      ps[b] = xorBlock (invCipher cs[b] s.rk) ((s.cv :: cs)[b]'(by simp; omega))) ∧
    t.cv = cs.getLastD s.cv ∧ t.rk = s.rk ∧ t.keyValid = s.keyValid
end

