-- ==== Sys2Proof/Laws/Datapath.lean ====
section
/-! SUPPORT. What one byte of each datapath function is, said once, so that no proof unfolds a `Vector.ofFn`. -/

namespace Sys2Proof.Machine

@[simp] theorem getElem_subBytes (s : Block) (i : Nat) (h : i < 16) : (subBytes s)[i] = sbox s[i] := by
  simp [subBytes]

@[simp] theorem getElem_invSubBytes (s : Block) (i : Nat) (h : i < 16) : (invSubBytes s)[i] = invSbox s[i] := by
  simp [invSubBytes]

@[simp] theorem getElem_shiftRows (s : Block) (i : Nat) (h : i < 16) :
    (shiftRows s)[i] = s[i % 4 + 4 * ((i / 4 + i % 4) % 4)] := by
  simp [shiftRows]

@[simp] theorem getElem_invShiftRows (s : Block) (i : Nat) (h : i < 16) :
    (invShiftRows s)[i] = s[i % 4 + 4 * ((i / 4 + 4 - i % 4) % 4)] := by
  simp [invShiftRows]

@[simp] theorem getElem_addRoundKey (rk : Schedule) (r : Fin 11) (s : Block) (i : Nat) (h : i < 16) :
    (addRoundKey rk r s)[i] = s[i] ^^^ rk[16 * r.val + i] := by
  simp [addRoundKey]

@[simp] theorem getElem_mapColumns (f : Col → Col) (s : Block) (i : Nat) (h : i < 16) :
    (mapColumns f s)[i] = (f (column s ⟨i / 4, by omega⟩))[i % 4] := by
  simp [mapColumns]

@[simp] theorem getElem_roundKey (rk : Schedule) (r : Fin 11) (i : Nat) (h : i < 16) :
    (roundKey rk r)[i] = rk[16 * r.val + i] := by
  simp [roundKey]

@[simp] theorem getElem_scheduleWord (rk : Schedule) (i : Fin 44) (j : Nat) (h : j < 4) :
    (scheduleWord rk i)[j] = rk[4 * i.val + j] := by
  simp [scheduleWord]

@[simp] theorem getElem_xorCol (a b : Col) (j : Nat) (h : j < 4) : (xorCol a b)[j] = a[j] ^^^ b[j] := by
  simp [xorCol]

@[simp] theorem getElem_xorBlock (a b : Block) (i : Nat) (h : i < 16) : (xorBlock a b)[i] = a[i] ^^^ b[i] := by
  simp [xorBlock]

/-- A byte of the schedule is a byte of its word. -/
theorem getElem_keyExpansion (key : Block) (b : Nat) (h : b < 176) :
    (keyExpansion key)[b] = ((keyWords key 40)[b / 4])[b % 4] := by
  simp [keyExpansion]

/-- A later step of the expansion leaves the earlier words as they are. -/
theorem getElem_keyWords_succ (key : Block) (n i : Nat) (h : i < n + 4) :
    (keyWords key (n + 1))[i] = (keyWords key n)[i] := by
  simp [keyWords, h]

/-- The word that step `n + 4` of the expansion makes. -/
theorem getElem_keyWords_new (key : Block) (n : Nat) :
    (keyWords key (n + 1))[n + 4] =
      xorCol (keyWords key n)[n] (keyTemp (n + 4) (keyWords key n)[n + 3]) := by
  simp [keyWords]

/-- Byte `j` of column `c` is byte `4c + j` of the state (R35). -/
@[simp] theorem getElem_column (s : Block) (c : Fin 4) (j : Nat) (h : j < 4) : (column s c)[j] = s[4 * c.val + j] := by
  match j, h with
  | 0, _ | 1, _ | 2, _ | 3, _ => simp [column]

/-- A column of a column-wise map is the map of that column. -/
theorem column_mapColumns (f : Col → Col) (s : Block) (c : Fin 4) : column (mapColumns f s) c = f (column s c) := by
  apply Vector.ext
  intro j hj
  have hd : (4 * c.val + j) / 4 = c.val := by omega
  have hm : (4 * c.val + j) % 4 = j := by omega
  simp only [getElem_column, getElem_mapColumns, hd, hm]

/-- Two blocks with equal columns are equal. -/
theorem block_ext_columns {a b : Block} (h : ∀ c, column a c = column b c) : a = b := by
  apply Vector.ext
  intro i hi
  have e : (column a ⟨i / 4, by omega⟩)[i % 4] = (column b ⟨i / 4, by omega⟩)[i % 4] := by rw [h]
  simpa [Nat.div_add_mod] using e

end Sys2Proof.Machine
end

