-- ==== Sys2Proof/Laws/State.lean ====
section
/-! SUPPORT. One lemma per field per shared update of the state, all true by `rfl`, so that no proof unfolds a record
update. -/

namespace Sys2Proof.Machine

/-! ### reject -/

@[simp] theorem reject_key (e : ErrName) (s : State) : (reject e s).key = s.key := rfl
@[simp] theorem reject_iv (e : ErrName) (s : State) : (reject e s).iv = s.iv := rfl
@[simp] theorem reject_din (e : ErrName) (s : State) : (reject e s).din = s.din := rfl
@[simp] theorem reject_dout (e : ErrName) (s : State) : (reject e s).dout = s.dout := rfl
@[simp] theorem reject_busy (e : ErrName) (s : State) : (reject e s).busy = s.busy := rfl
@[simp] theorem reject_done (e : ErrName) (s : State) : (reject e s).done = s.done := rfl
@[simp] theorem reject_keyValid (e : ErrName) (s : State) : (reject e s).keyValid = s.keyValid := rfl
@[simp] theorem reject_err (e : ErrName) (s : State) : (reject e s).err = e.code := rfl
@[simp] theorem reject_rk (e : ErrName) (s : State) : (reject e s).rk = s.rk := rfl
@[simp] theorem reject_cv (e : ErrName) (s : State) : (reject e s).cv = s.cv := rfl
@[simp] theorem reject_st (e : ErrName) (s : State) : (reject e s).st = s.st := rfl
@[simp] theorem reject_pend (e : ErrName) (s : State) : (reject e s).pend = s.pend := rfl
@[simp] theorem reject_masters (e : ErrName) (s : State) : (reject e s).masters = s.masters := rfl
@[simp] theorem reject_turns (e : ErrName) (s : State) : (reject e s).turns = s.turns := rfl
@[simp] theorem reject_replies (e : ErrName) (s : State) : (reject e s).replies = s.replies := rfl

/-! ### accept -/

@[simp] theorem accept_key (i : Instr) (s : State) : (accept i s).key = s.key := rfl
@[simp] theorem accept_iv (i : Instr) (s : State) : (accept i s).iv = s.iv := rfl
@[simp] theorem accept_din (i : Instr) (s : State) : (accept i s).din = s.din := rfl
@[simp] theorem accept_dout (i : Instr) (s : State) : (accept i s).dout = s.dout := rfl
@[simp] theorem accept_busy (i : Instr) (s : State) : (accept i s).busy = true := rfl
@[simp] theorem accept_done (i : Instr) (s : State) : (accept i s).done = false := rfl
@[simp] theorem accept_keyValid (i : Instr) (s : State) : (accept i s).keyValid = s.keyValid := rfl
@[simp] theorem accept_err (i : Instr) (s : State) : (accept i s).err = ErrName.none.code := rfl
@[simp] theorem accept_rk (i : Instr) (s : State) : (accept i s).rk = s.rk := rfl
@[simp] theorem accept_cv (i : Instr) (s : State) : (accept i s).cv = s.cv := rfl
@[simp] theorem accept_st (i : Instr) (s : State) : (accept i s).st = s.st := rfl
@[simp] theorem accept_pend (i : Instr) (s : State) : (accept i s).pend = some (latch i s) := rfl
@[simp] theorem accept_masters (i : Instr) (s : State) : (accept i s).masters = s.masters := rfl
@[simp] theorem accept_turns (i : Instr) (s : State) : (accept i s).turns = s.turns := rfl
@[simp] theorem accept_replies (i : Instr) (s : State) : (accept i s).replies = s.replies := rfl

/-! ### finish -/

@[simp] theorem finish_key (s : State) : (finish s).key = s.key := rfl
@[simp] theorem finish_iv (s : State) : (finish s).iv = s.iv := rfl
@[simp] theorem finish_din (s : State) : (finish s).din = s.din := rfl
@[simp] theorem finish_dout (s : State) : (finish s).dout = s.dout := rfl
@[simp] theorem finish_busy (s : State) : (finish s).busy = false := rfl
@[simp] theorem finish_done (s : State) : (finish s).done = true := rfl
@[simp] theorem finish_keyValid (s : State) : (finish s).keyValid = s.keyValid := rfl
@[simp] theorem finish_err (s : State) : (finish s).err = s.err := rfl
@[simp] theorem finish_rk (s : State) : (finish s).rk = s.rk := rfl
@[simp] theorem finish_cv (s : State) : (finish s).cv = s.cv := rfl
@[simp] theorem finish_st (s : State) : (finish s).st = s.st := rfl
@[simp] theorem finish_pend (s : State) : (finish s).pend = none := rfl
@[simp] theorem finish_masters (s : State) : (finish s).masters = s.masters := rfl
@[simp] theorem finish_turns (s : State) : (finish s).turns = s.turns := rfl
@[simp] theorem finish_replies (s : State) : (finish s).replies = s.replies := rfl

/-! ### installSchedule -/

@[simp] theorem installSchedule_key (r : Schedule) (s : State) : (installSchedule r s).key = s.key := rfl
@[simp] theorem installSchedule_iv (r : Schedule) (s : State) : (installSchedule r s).iv = s.iv := rfl
@[simp] theorem installSchedule_din (r : Schedule) (s : State) : (installSchedule r s).din = s.din := rfl
@[simp] theorem installSchedule_dout (r : Schedule) (s : State) : (installSchedule r s).dout = s.dout := rfl
@[simp] theorem installSchedule_busy (r : Schedule) (s : State) : (installSchedule r s).busy = s.busy := rfl
@[simp] theorem installSchedule_done (r : Schedule) (s : State) : (installSchedule r s).done = s.done := rfl
@[simp] theorem installSchedule_keyValid (r : Schedule) (s : State) : (installSchedule r s).keyValid = true := rfl
@[simp] theorem installSchedule_err (r : Schedule) (s : State) : (installSchedule r s).err = s.err := rfl
@[simp] theorem installSchedule_rk (r : Schedule) (s : State) : (installSchedule r s).rk = r := rfl
@[simp] theorem installSchedule_cv (r : Schedule) (s : State) : (installSchedule r s).cv = s.cv := rfl
@[simp] theorem installSchedule_st (r : Schedule) (s : State) : (installSchedule r s).st = s.st := rfl
@[simp] theorem installSchedule_pend (r : Schedule) (s : State) : (installSchedule r s).pend = s.pend := rfl
@[simp] theorem installSchedule_masters (r : Schedule) (s : State) : (installSchedule r s).masters = s.masters := rfl
@[simp] theorem installSchedule_turns (r : Schedule) (s : State) : (installSchedule r s).turns = s.turns := rfl
@[simp] theorem installSchedule_replies (r : Schedule) (s : State) : (installSchedule r s).replies = s.replies := rfl

/-! ### outputBlock -/

@[simp] theorem outputBlock_key (x : Block) (s : State) : (outputBlock x s).key = s.key := rfl
@[simp] theorem outputBlock_iv (x : Block) (s : State) : (outputBlock x s).iv = s.iv := rfl
@[simp] theorem outputBlock_din (x : Block) (s : State) : (outputBlock x s).din = s.din := rfl
@[simp] theorem outputBlock_dout (x : Block) (s : State) : (outputBlock x s).dout = wordsOf x := rfl
@[simp] theorem outputBlock_busy (x : Block) (s : State) : (outputBlock x s).busy = s.busy := rfl
@[simp] theorem outputBlock_done (x : Block) (s : State) : (outputBlock x s).done = s.done := rfl
@[simp] theorem outputBlock_keyValid (x : Block) (s : State) : (outputBlock x s).keyValid = s.keyValid := rfl
@[simp] theorem outputBlock_err (x : Block) (s : State) : (outputBlock x s).err = s.err := rfl
@[simp] theorem outputBlock_rk (x : Block) (s : State) : (outputBlock x s).rk = s.rk := rfl
@[simp] theorem outputBlock_cv (x : Block) (s : State) : (outputBlock x s).cv = s.cv := rfl
@[simp] theorem outputBlock_st (x : Block) (s : State) : (outputBlock x s).st = x := rfl
@[simp] theorem outputBlock_pend (x : Block) (s : State) : (outputBlock x s).pend = s.pend := rfl
@[simp] theorem outputBlock_masters (x : Block) (s : State) : (outputBlock x s).masters = s.masters := rfl
@[simp] theorem outputBlock_turns (x : Block) (s : State) : (outputBlock x s).turns = s.turns := rfl
@[simp] theorem outputBlock_replies (x : Block) (s : State) : (outputBlock x s).replies = s.replies := rfl

/-! ### takeTurn -/

@[simp] theorem takeTurn_key (s : State) : (takeTurn s).key = s.key := rfl
@[simp] theorem takeTurn_iv (s : State) : (takeTurn s).iv = s.iv := rfl
@[simp] theorem takeTurn_din (s : State) : (takeTurn s).din = s.din := rfl
@[simp] theorem takeTurn_dout (s : State) : (takeTurn s).dout = s.dout := rfl
@[simp] theorem takeTurn_busy (s : State) : (takeTurn s).busy = s.busy := rfl
@[simp] theorem takeTurn_done (s : State) : (takeTurn s).done = s.done := rfl
@[simp] theorem takeTurn_keyValid (s : State) : (takeTurn s).keyValid = s.keyValid := rfl
@[simp] theorem takeTurn_err (s : State) : (takeTurn s).err = s.err := rfl
@[simp] theorem takeTurn_rk (s : State) : (takeTurn s).rk = s.rk := rfl
@[simp] theorem takeTurn_cv (s : State) : (takeTurn s).cv = s.cv := rfl
@[simp] theorem takeTurn_st (s : State) : (takeTurn s).st = s.st := rfl
@[simp] theorem takeTurn_pend (s : State) : (takeTurn s).pend = s.pend := rfl
@[simp] theorem takeTurn_masters (s : State) : (takeTurn s).masters = s.masters := rfl
@[simp] theorem takeTurn_turns (s : State) : (takeTurn s).turns = s.turns.tail := rfl
@[simp] theorem takeTurn_replies (s : State) : (takeTurn s).replies = s.replies := rfl

/-! ### recordReply -/

@[simp] theorem recordReply_key (m : Nat) (l : List BusOp) (r : Reply) (s : State) : (recordReply m l r s).key = s.key := rfl
@[simp] theorem recordReply_iv (m : Nat) (l : List BusOp) (r : Reply) (s : State) : (recordReply m l r s).iv = s.iv := rfl
@[simp] theorem recordReply_din (m : Nat) (l : List BusOp) (r : Reply) (s : State) : (recordReply m l r s).din = s.din := rfl
@[simp] theorem recordReply_dout (m : Nat) (l : List BusOp) (r : Reply) (s : State) : (recordReply m l r s).dout = s.dout := rfl
@[simp] theorem recordReply_busy (m : Nat) (l : List BusOp) (r : Reply) (s : State) : (recordReply m l r s).busy = s.busy := rfl
@[simp] theorem recordReply_done (m : Nat) (l : List BusOp) (r : Reply) (s : State) : (recordReply m l r s).done = s.done := rfl
@[simp] theorem recordReply_keyValid (m : Nat) (l : List BusOp) (r : Reply) (s : State) : (recordReply m l r s).keyValid = s.keyValid := rfl
@[simp] theorem recordReply_err (m : Nat) (l : List BusOp) (r : Reply) (s : State) : (recordReply m l r s).err = s.err := rfl
@[simp] theorem recordReply_rk (m : Nat) (l : List BusOp) (r : Reply) (s : State) : (recordReply m l r s).rk = s.rk := rfl
@[simp] theorem recordReply_cv (m : Nat) (l : List BusOp) (r : Reply) (s : State) : (recordReply m l r s).cv = s.cv := rfl
@[simp] theorem recordReply_st (m : Nat) (l : List BusOp) (r : Reply) (s : State) : (recordReply m l r s).st = s.st := rfl
@[simp] theorem recordReply_pend (m : Nat) (l : List BusOp) (r : Reply) (s : State) : (recordReply m l r s).pend = s.pend := rfl
@[simp] theorem recordReply_masters (m : Nat) (l : List BusOp) (r : Reply) (s : State) : (recordReply m l r s).masters = s.masters.set m l := rfl
@[simp] theorem recordReply_turns (m : Nat) (l : List BusOp) (r : Reply) (s : State) : (recordReply m l r s).turns = s.turns := rfl
@[simp] theorem recordReply_replies (m : Nat) (l : List BusOp) (r : Reply) (s : State) : (recordReply m l r s).replies = s.replies ++ [(m, r)] := rfl

/-! ### platformReset -/

@[simp] theorem platformReset_key (s : State) : (platformReset s).key = zeroBank := rfl
@[simp] theorem platformReset_iv (s : State) : (platformReset s).iv = zeroBank := rfl
@[simp] theorem platformReset_din (s : State) : (platformReset s).din = zeroBank := rfl
@[simp] theorem platformReset_dout (s : State) : (platformReset s).dout = zeroBank := rfl
@[simp] theorem platformReset_busy (s : State) : (platformReset s).busy = false := rfl
@[simp] theorem platformReset_done (s : State) : (platformReset s).done = false := rfl
@[simp] theorem platformReset_keyValid (s : State) : (platformReset s).keyValid = false := rfl
@[simp] theorem platformReset_err (s : State) : (platformReset s).err = 0x0#4 := rfl
@[simp] theorem platformReset_rk (s : State) : (platformReset s).rk = zeroSchedule := rfl
@[simp] theorem platformReset_cv (s : State) : (platformReset s).cv = zeroBlock := rfl
@[simp] theorem platformReset_st (s : State) : (platformReset s).st = zeroBlock := rfl
@[simp] theorem platformReset_pend (s : State) : (platformReset s).pend = none := rfl
@[simp] theorem platformReset_masters (s : State) : (platformReset s).masters = s.masters := rfl
@[simp] theorem platformReset_turns (s : State) : (platformReset s).turns = s.turns := rfl
@[simp] theorem platformReset_replies (s : State) : (platformReset s).replies = s.replies := rfl

end Sys2Proof.Machine
end

