-- ==== Sys2Proof/Laws/Ops.lean ====
section
/-! SUPPORT. What each shared operation can do, said once: completing a command, issuing one, one access, one turn. -/

namespace Sys2Proof.Machine

/-- The body of each command: what its completion does before `finish`. -/
def bodyOf : Instr → Pending → State → State
  | .keyexp => bodyKeyexp
  | .ecbenc => bodyEcbenc
  | .ecbdec => bodyEcbdec
  | .ecbenck => bodyEcbenck
  | .ecbdeck => bodyEcbdeck
  | .cbcinit => bodyCbcinit
  | .cbcdec => bodyCbcdec
  | .clear => bodyClear

theorem exec_eq_completeWith (i : Instr) (s : State) : exec i s = completeWith (bodyOf i) s := by
  cases i <;> rfl

theorem completeWith_of_pending {s : State} {p : Pending} (body : Pending → State → State) (h : s.pend = some p) :
    completeWith body s = .next (finish (body p s)) := by
  simp [completeWith, h]

theorem completeWith_of_none {s : State} (body : Pending → State → State) (h : s.pend = none) :
    completeWith body s = .fault .noPendingCommand := by
  simp [completeWith, h]

/-- A meaning that answers a next state ran its body on the pending record and finished. -/
theorem exec_next_cases {i : Instr} {s t : State} (h : exec i s = .next t) :
    ∃ p, s.pend = some p ∧ t = finish (bodyOf i p s) := by
  rw [exec_eq_completeWith] at h
  cases hp : s.pend with
  | none => simp [completeWith, hp] at h
  | some p => exact ⟨p, rfl, by simpa [completeWith, hp] using h.symm⟩

/-- `IssueCommand` rejects in the order of R163 or accepts. -/
theorem issueCommand_cases (v : Word) (s : State) :
    (s.busy = true ∧ issueCommand v s = reject .busy s) ∨
    (s.busy = false ∧ (∃ e, decode v = .error e) ∧ issueCommand v s = reject .illegalCmd s) ∨
    (∃ i, s.busy = false ∧ decode v = .ok i ∧ needsKey i = true ∧ s.keyValid = false ∧
      issueCommand v s = reject .noKey s) ∨
    (∃ i, s.busy = false ∧ decode v = .ok i ∧ (needsKey i = true → s.keyValid = true) ∧
      issueCommand v s = accept i s) := by
  cases hb : s.busy
  · cases hd : decode v with
    | error e => exact .inr (.inl ⟨rfl, ⟨e, rfl⟩, by simp [issueCommand, hb, hd]⟩)
    | ok i =>
      cases hk : needsKey i <;> cases hv : s.keyValid
      · exact .inr (.inr (.inr ⟨i, rfl, rfl, by simp [hk], by simp [issueCommand, hb, hd, hk]⟩))
      · exact .inr (.inr (.inr ⟨i, rfl, rfl, by simp, by simp [issueCommand, hb, hd, hk]⟩))
      · exact .inr (.inr (.inl ⟨i, rfl, rfl, hk, rfl, by simp [issueCommand, hb, hd, hk, hv]⟩))
      · exact .inr (.inr (.inr ⟨i, rfl, rfl, by simp, by simp [issueCommand, hb, hd, hk, hv]⟩))
  · exact .inl ⟨rfl, by simp [issueCommand, hb]⟩

/-- What a register write can do: present a command, replace one word of `KEY`, `IV` or `DIN`, or nothing. -/
theorem writeReg_cases (off : Offset) (v : Word) (s : State) :
    (regAt off = .cmd ∧ writeReg off v s = issueCommand v s) ∨
    (∃ k, regAt off = .key k ∧ writeReg off v s = { s with key := setWord s.key k v }) ∨
    (∃ k, regAt off = .iv k ∧ writeReg off v s = { s with iv := setWord s.iv k v }) ∨
    (∃ k, regAt off = .din k ∧ writeReg off v s = { s with din := setWord s.din k v }) ∨
    writeReg off v s = s := by
  cases h : regAt off <;> simp [writeReg, writeRegister, h]

/-- The three things an access can be: a bus error, a read, a write. Only a write can change the state. -/
theorem access_cases (a : Access) (s : State) :
    ((a.size ≠ 4 ∨ a.off.toNat % 4 ≠ 0) ∧ access a s = (s, .busError a.off a.size)) ∨
    (a.size = 4 ∧ a.off.toNat % 4 = 0 ∧ a.kind = .read ∧ access a s = (s, .data (readReg a.off s))) ∨
    (∃ v, a.size = 4 ∧ a.off.toNat % 4 = 0 ∧ a.kind = .write v ∧ access a s = (writeReg a.off v s, .done)) := by
  by_cases h : a.size ≠ 4 ∨ a.off.toNat % 4 ≠ 0
  · exact .inl ⟨h, by simp only [access, if_pos h]⟩
  · have h4 : a.size = 4 := by omega
    have h0 : a.off.toNat % 4 = 0 := by omega
    cases hk : a.kind with
    | read => exact .inr (.inl ⟨h4, h0, rfl, by simp only [access, if_neg h, hk]⟩)
    | write v => exact .inr (.inr ⟨v, h4, h0, rfl, by simp only [access, if_neg h, hk]⟩)

/-- The engine's turn: nothing, a completion, or the stop that R28 rules out. -/
theorem engineTurn_cases (s : State) :
    (s.busy = false ∧ engineTurn s = .next s) ∨
    (∃ p, s.busy = true ∧ s.pend = some p ∧ engineTurn s = .next (finish (bodyOf p.op p s))) ∨
    (s.busy = true ∧ s.pend = none ∧ engineTurn s = .fault .noPendingCommand) := by
  cases hb : s.busy
  · exact .inl ⟨rfl, by simp [engineTurn, hb]⟩
  · cases hp : s.pend with
    | none => exact .inr (.inr ⟨rfl, rfl, by simp [engineTurn, hb, hp]⟩)
    | some p =>
      refine .inr (.inl ⟨p, rfl, rfl, ?_⟩)
      simp [engineTurn, hb, hp, exec_eq_completeWith, completeWith_of_pending _ hp]

/-- A master's turn: nothing left to do, one access, or one read of a `POLL`. -/
theorem masterTurn_cases (m : Nat) (s : State) :
    (s.masters.getD m [] = [] ∧ masterTurn m s = s) ∨
    (∃ a rest, s.masters.getD m [] = .access a :: rest ∧
      masterTurn m s = recordReply m rest (access a s).2 (access a s).1) ∨
    (∃ l r, masterTurn m s = recordReply m l r s) := by
  cases h : s.masters.getD m [] with
  | nil => exact .inl ⟨rfl, by simp only [masterTurn, h]⟩
  | cons op rest =>
    cases op with
    | access a => exact .inr (.inl ⟨a, rest, rfl, by simp only [masterTurn, h]⟩)
    | poll off mask val => exact .inr (.inr ⟨_, _, by simp only [masterTurn, h]; rfl⟩)

end Sys2Proof.Machine
end

