-- ==== Sys2Proof/Laws/Packing.lean ====
section
/-! SUPPORT. The byte order of a word (20_memory.md R43), said once: the number four bytes make, the byte a word holds, and
one element of a packed or unpacked value. -/

namespace Sys2Proof.Machine

theorem toNat_wordOfBytes (b0 b1 b2 b3 : Byte) :
    (wordOfBytes b0 b1 b2 b3).toNat =
      b0.toNat + 2 ^ 8 * b1.toNat + 2 ^ 16 * b2.toNat + 2 ^ 24 * b3.toNat := by
  have h0 := b0.isLt
  have h1 := b1.isLt
  have h2 := b2.isLt
  show ((b3 ++ b2 ++ b1 ++ b0 : BitVec (8 + 8 + 8 + 8))).toNat = _
  rw [BitVec.toNat_append, BitVec.toNat_append, BitVec.toNat_append,
    ← Nat.shiftLeft_add_eq_or_of_lt (by omega), ← Nat.shiftLeft_add_eq_or_of_lt (by omega),
    ← Nat.shiftLeft_add_eq_or_of_lt (by omega)]
  simp only [Nat.shiftLeft_eq]
  omega

/-- Byte `j` of a word, as a number. -/
theorem toNat_byteOfWord (w : Word) (j : Nat) : (w.extractLsb' (8 * j) 8).toNat = w.toNat / 2 ^ (8 * j) % 2 ^ 8 := by
  rw [BitVec.extractLsb'_toNat, Nat.shiftRight_eq_div_pow]

@[simp] theorem getElem_bytesOf (r : RegBank) (i : Nat) (h : i < 16) :
    (bytesOf r)[i] = r[i / 4].extractLsb' (8 * (i % 4)) 8 := by
  simp [bytesOf]

@[simp] theorem getElem_wordsOf (x : Block) (k : Nat) (h : k < 4) :
    (wordsOf x)[k] = wordOfBytes x[4 * k] x[4 * k + 1] x[4 * k + 2] x[4 * k + 3] := by
  simp [wordsOf]

end Sys2Proof.Machine
end

