-- ==== Sys2Proof/Laws/PerInstr.lean ====
section
/-! SUPPORT. The per-instruction family `CommandWord`: the encoder gives every command a legal command word, `RSVD` zero
and `OP` the command's opcode (30_encoding.md R60, R61). -/

namespace Sys2Proof.Laws.CommandWord

/-- The word of a command is legal and carries its opcode. -/
def Statement (i : Instr) : Prop := commandWordWf (encode i) = true ∧ rsvdField (encode i) = 0#28 ∧ opField (encode i) = i.op

theorem keyexp : Statement .keyexp := by unfold Statement; decide
theorem ecbenc : Statement .ecbenc := by unfold Statement; decide
theorem ecbdec : Statement .ecbdec := by unfold Statement; decide
theorem ecbenck : Statement .ecbenck := by unfold Statement; decide
theorem ecbdeck : Statement .ecbdeck := by unfold Statement; decide
theorem cbcinit : Statement .cbcinit := by unfold Statement; decide
theorem cbcdec : Statement .cbcdec := by unfold Statement; decide
theorem clear : Statement .clear := by unfold Statement; decide

end Sys2Proof.Laws.CommandWord
end

