-- ==== Sys2Proof/Laws/Steps.lean ====
section
/-! SUPPORT. What one step can do, said once, with every guard: each invariant is then a case analysis over it. -/

namespace Sys2Proof.Machine

/-- The inversion of `step`: idle, reset, a completion, an engine turn with nothing to complete, a master with nothing to
do, one read or bus error, one register write. -/
theorem step_cases {s t : State} (h : step s = .next t) :
    (nextTurn s = .idle ∧ t = takeTurn s) ∨
    (nextTurn s = .reset ∧ t = platformReset (takeTurn s)) ∨
    (∃ p, s.completes p ∧ t = finish (bodyOf p.op p (takeTurn s))) ∨
    (nextTurn s = .engine ∧ s.busy = false ∧ t = takeTurn s) ∨
    (∃ m, nextTurn s = .master m ∧ t = takeTurn s) ∨
    (∃ m l r, nextTurn s = .master m ∧ t = recordReply m l r (takeTurn s)) ∨
    (∃ m off v l, s.writes m off v ∧ t = recordReply m l .done (writeReg off v (takeTurn s))) := by
  unfold step at h
  cases ht : nextTurn s with
  | idle =>
    simp only [ht, perform, Host.Outcome.next.injEq] at h
    exact .inl ⟨rfl, h.symm⟩
  | reset =>
    simp only [ht, perform, Host.Outcome.next.injEq] at h
    exact .inr (.inl ⟨rfl, h.symm⟩)
  | engine =>
    simp only [ht, perform] at h
    rcases engineTurn_cases (takeTurn s) with ⟨hb, he⟩ | ⟨p, hb, hp, he⟩ | ⟨_, _, he⟩ <;> rw [he] at h
    · simp only [Host.Outcome.next.injEq] at h
      exact .inr (.inr (.inr (.inl ⟨rfl, hb, h.symm⟩)))
    · simp only [Host.Outcome.next.injEq] at h
      exact .inr (.inr (.inl ⟨p, ⟨ht, hb, hp⟩, h.symm⟩))
    · simp at h
  | master m =>
    simp only [ht, perform, Host.Outcome.next.injEq] at h
    refine .inr (.inr (.inr (.inr ?_)))
    rcases masterTurn_cases m (takeTurn s) with ⟨_, he⟩ | ⟨a, rest, hp, he⟩ | ⟨l, r, he⟩
    · exact .inl ⟨m, rfl, by rw [← h, he]⟩
    · rcases access_cases a (takeTurn s) with ⟨_, ha⟩ | ⟨_, _, _, ha⟩ | ⟨v, h4, h0, hk, ha⟩
      · exact .inr (.inl ⟨m, _, _, rfl, by rw [← h, he, ha]⟩)
      · exact .inr (.inl ⟨m, _, _, rfl, by rw [← h, he, ha]⟩)
      · refine .inr (.inr ⟨m, a.off, v, rest, ⟨ht, h0, rest, ?_⟩, by rw [← h, he, ha]⟩)
        obtain ⟨off, size, kind⟩ := a
        simp only at h4 hk
        subst h4 hk
        exact hp
    · exact .inr (.inl ⟨m, l, r, rfl, by rw [← h, he]⟩)

end Sys2Proof.Machine
end

