-- ==== Sys2Proof/Tests/Slice0.lean ====
section
/-! SUPPORT. Tests on values taken from the spec (95_test_vectors.md and the tables of the rules, named at each group),
and for every statement with hypotheses a concrete state that meets them (`witness_<Name>`). -/

namespace Sys2Proof.Tests

open Sys2Proof Sys2Proof.Machine

/-! ### Helpers -/

/-- A byte string written as one hexadecimal number, byte 0 first (00_scope.md R8). -/
def blockOfHex (n : Nat) : Block := Vector.ofFn fun i => BitVec.ofNat 8 (n >>> (8 * (15 - i.val)))

/-- A schedule from its eleven round keys, each written as in `blockOfHex`. -/
def scheduleOfHex (rs : List Nat) : Schedule :=
  Vector.ofFn fun b => BitVec.ofNat 8 (rs.getD (b.val / 16) 0 >>> (8 * (15 - b.val % 16)))

/-- The key of V1. -/
def k1 : Block := blockOfHex 0x000102030405060708090a0b0c0d0e0f

/-- The plaintext of V1. -/
def p1 : Block := blockOfHex 0x00112233445566778899aabbccddeeff

/-- The ciphertext of V1. -/
def c1 : Block := blockOfHex 0x69c4e0d86a7b0430d8cdb78070b4c55a

/-- T6: the schedule of `k1`. -/
def rk1 : Schedule :=
  scheduleOfHex
    [0x000102030405060708090a0b0c0d0e0f, 0xd6aa74fdd2af72fadaa678f1d6ab76fe, 0xb692cf0b643dbdf1be9bc5006830b3fe,
     0xb6ff744ed2c2c9bf6c590cbf0469bf41, 0x47f7f7bc95353e03f96c32bcfd058dfd, 0x3caaa3e8a99f9deb50f3af57adf622aa,
     0x5e390f7df7a69296a7553dc10aa31f6b, 0x14f9701ae35fe28c440adf4d4ea9c026, 0x47438735a41c65b9e016baf4aebf7ad2,
     0x549932d1f08557681093ed9cbe2c974e, 0x13111d7fe3944a17f307a78b4d2b30c5]

/-- V1's key and plaintext, and an IV, as register words (T17), in the reset state. -/
def loaded : State :=
  { State.reset with
    key := #v[0x03020100#32, 0x07060504#32, 0x0B0A0908#32, 0x0F0E0D0C#32]
    iv := #v[0x33221100#32, 0x77665544#32, 0xBBAA9988#32, 0xFFEEDDCC#32]
    din := #v[0x33221100#32, 0x77665544#32, 0xBBAA9988#32, 0xFFEEDDCC#32] }

/-- After `KEYEXP` completed on `loaded`. -/
def keyed : State := { loaded with rk := keyExpansion k1, keyValid := true, done := true }

/-- `KEYEXP` pending on `loaded`, the engine to move after master 1 had a turn. -/
def expanding : State := { accept .keyexp loaded with turns := [.master 1, .engine], masters := [[], [.rd 0x04]] }

/-- The engine's turn in `s` with command `i` pending. -/
def completing (i : Instr) (s : State) : State := { accept i s with turns := [.engine] }

/-- Master 0's turn in `s`, its next line being `op`, master 1 waiting behind it. -/
def moving (op : BusOp) (s : State) : State :=
  { s with masters := [[op, .rd 0x04], [.rd 0x40]], turns := [.master 0, .engine] }

/-! ### Well-formedness: each check refuses an ill-formed term -/

theorem test_wf_reserved_bits_refused : commandWordWf 0x00000012#32 = false := by decide
theorem test_wf_reserved_op_zero_refused : commandWordWf 0x00000000#32 = false := by decide
theorem test_wf_reserved_op_nine_refused : commandWordWf 0x00000009#32 = false := by decide
theorem test_wf_command_word_admitted : commandWordWf 0x00000008#32 = true := by decide
theorem test_wf_byte_access_refused : Access.wf ⟨0x00, 1, .write 0x04⟩ = false := by decide
theorem test_wf_misaligned_access_refused : Access.wf ⟨0x02, 4, .read⟩ = false := by decide
theorem test_wf_wide_access_refused : Access.wf ⟨0x30, 8, .read⟩ = false := by decide
theorem test_wf_misaligned_poll_refused : BusOp.wf (.poll 0x05 0x1 0x0) = false := by decide
theorem test_wf_halfword_line_refused : BusOp.wf (.access ⟨0x04, 2, .read⟩) = false := by decide
theorem test_wf_cbc_length_refused : cbcLengthWf 17 = false ∧ cbcLengthWf 32 = true := by decide
theorem test_wf_every_command : ∀ i ∈ [Instr.keyexp, .ecbenc, .ecbdec, .ecbenck, .ecbdeck, .cbcinit, .cbcdec, .clear],
    i.wf = true := by decide

/-! ### Decoding: the words of R61 written out bit by bit, `RSVD ‖ OP` -/

theorem test_decode_keyexp : decode 0b0000000000000000000000000000_0001#32 = .ok .keyexp := by decide
theorem test_decode_ecbenc : decode 0b0000000000000000000000000000_0010#32 = .ok .ecbenc := by decide
theorem test_decode_ecbdec : decode 0b0000000000000000000000000000_0011#32 = .ok .ecbdec := by decide
theorem test_decode_ecbenck : decode 0b0000000000000000000000000000_0100#32 = .ok .ecbenck := by decide
theorem test_decode_ecbdeck : decode 0b0000000000000000000000000000_0101#32 = .ok .ecbdeck := by decide
theorem test_decode_cbcinit : decode 0b0000000000000000000000000000_0110#32 = .ok .cbcinit := by decide
theorem test_decode_cbcdec : decode 0b0000000000000000000000000000_0111#32 = .ok .cbcdec := by decide
theorem test_decode_clear : decode 0b0000000000000000000000000000_1000#32 = .ok .clear := by decide

/-- R63: `OP` 0x0 and 0x9 to 0xF, each written out. -/
theorem test_decode_reserved_ops :
    [0b0000#32, 0b1001#32, 0b1010#32, 0b1011#32, 0b1100#32, 0b1101#32, 0b1110#32, 0b1111#32].map decode =
      List.replicate 8 (.error .reservedOp) := by decide

/-- R63: one reserved bit set above a legal `OP`, the lowest and the highest. -/
theorem test_decode_reserved_bits :
    decode 0b0000000000000000000000000001_0010#32 = .error .reservedBits ∧
    decode 0b1000000000000000000000000000_0001#32 = .error .reservedBits := by decide

/-- R64: three bytes or five are no command. -/
theorem test_decode_bytes_length :
    decodeBytes [0x01, 0x00, 0x00, 0x00] = .ok .keyexp ∧ decodeBytes [0x01, 0x00, 0x00] = .error .notOneWord ∧
    decodeBytes [0x01, 0x00, 0x00, 0x00, 0x00] = .error .notOneWord := by decide

theorem test_decode_table_word :
    decodeTableWord 32 0x7 = some .cbcdec ∧ decodeTableWord 8 0x8 = some .clear ∧ decodeTableWord 32 0x12 = none := by
  decide

/-! ### The Galois-field unit, the tables and the steps of the pipelines (T1 to T5, T10 to T12, T14, T17) -/

theorem test_xtime :
    [0x00, 0x01, 0x02, 0x57, 0xae, 0x47, 0x8e, 0x7f, 0x80, 0xff, 0x1b, 0x8d].map xtime =
      [0x00, 0x02, 0x04, 0xae, 0x47, 0x8e, 0x07, 0xfe, 0x1b, 0xe5, 0x36, 0x01] := by decide

/-- T2, with the rows where bits 7 to 5 of the multiplier are ignored. -/
theorem test_gfmul :
    gfMul 0x57 0x13 = 0xfe ∧ gfMul 0x57 0x83 = 0xf9 ∧ gfMul 0xff 0x0e = 0x8d ∧ gfMul 0x80 0x09 = 0xec ∧
    gfMul 0x53 0x1f = 0x4b ∧ gfMul 0x53 0x20 = 0x00 ∧ gfMul 0x02 0x87 = 0x0e := by decide

theorem test_field_product : fieldMul 0x57 0x83 = 0xc1 ∧ fieldMul 0x53 0xca = 0x01 ∧ fieldMul 0x02 0x87 = 0x15 := by
  decide

theorem test_sbox : [0x00, 0x01, 0x16, 0x52, 0x53, 0x63, 0x7c, 0xca, 0xed, 0xff].map sbox =
    [0x63, 0x7c, 0x47, 0x00, 0xed, 0xfb, 0x10, 0x74, 0x55, 0x16] := by decide

theorem test_inv_sbox : [0x00, 0x01, 0x16, 0x52, 0x53, 0x63, 0x7c, 0xca, 0xed, 0xff].map invSbox =
    [0x52, 0x09, 0xff, 0x48, 0x50, 0x00, 0x01, 0x10, 0x53, 0x7d] := by decide

theorem test_rcon : [1, 2, 3, 4, 5, 6, 7, 8, 9, 10].map rcon =
    [0x01, 0x02, 0x04, 0x08, 0x10, 0x20, 0x40, 0x80, 0x1b, 0x36] := by decide

theorem test_rotword_subword :
    rotWord #v[0x0c, 0x0d, 0x0e, 0x0f] = #v[0x0d, 0x0e, 0x0f, 0x0c] ∧
    subWord #v[0x0d, 0x0e, 0x0f, 0x0c] = #v[0xd7, 0xab, 0x76, 0xfe] := by decide

theorem test_shift_rows : shiftRows k1 = blockOfHex 0x00050a0f04090e03080d02070c01060b := by decide +kernel
theorem test_inv_shift_rows : invShiftRows k1 = blockOfHex 0x000d0a0704010e0b0805020f0c090603 := by decide +kernel
theorem test_mix_columns : mixColumns k1 = blockOfHex 0x02070005060304010a0f080d0e0b0c09 := by decide +kernel

theorem test_mix_column :
    mixColumn #v[0xf2, 0x0a, 0x22, 0x5c] = #v[0x9f, 0xdc, 0x58, 0x9d] ∧
    mixColumn #v[0xd4, 0xd4, 0xd4, 0xd5] = #v[0xd5, 0xd5, 0xd7, 0xd6] := by decide

theorem test_inv_mix_column : invMixColumn #v[0x80, 0x00, 0x00, 0x00] = #v[0x41, 0xec, 0xda, 0xf7] := by decide

/-- T12: round 1 of V1. -/
theorem test_forward_round :
    forwardRound rk1 (blockOfHex 0x00102030405060708090a0b0c0d0e0f0) 1 =
      blockOfHex 0x89d810e8855ace682d1843d8cb128fe4 := by decide +kernel

/-- T14: round 9 of V1, on the way back. -/
theorem test_inverse_round :
    inverseRound rk1 (blockOfHex 0x7ad5fda789ef4e272bca100b3d9ff59f) 9 =
      blockOfHex 0x54d990a16ba09ab596bbf40ea111702f := by decide +kernel

theorem test_byte_packing : wordsOf c1 = #v[0xD8E0C469#32, 0x30047B6A#32, 0x80B7CDD8#32, 0x5AC5B470#32] ∧
    bytesOf #v[0x33221100#32, 0x77665544#32, 0xBBAA9988#32, 0xFFEEDDCC#32] = p1 := by decide +kernel

/-! ### The known answers (T6, V1) -/

theorem test_key_expansion : keyExpansion k1 = rk1 := by decide +kernel
theorem test_cipher : cipher p1 rk1 = c1 := by decide +kernel
theorem test_inv_cipher : invCipher c1 rk1 = p1 := by decide +kernel

theorem loaded_key : bytesOf loaded.key = k1 := by decide +kernel
theorem loaded_din : bytesOf loaded.din = p1 := by decide +kernel

/-! ### Register access (T18) -/

theorem test_write_only_registers_read_zero :
    readReg 0x10 loaded = 0#32 ∧ readReg 0x20 loaded = 0#32 ∧ readReg 0x00 loaded = 0#32 ∧ readReg 0x7C loaded = 0#32 ∧
    readReg 0x30 loaded = 0x33221100#32 := by decide

theorem test_read_only_registers_ignore_writes :
    writeReg 0x40 0xDEADBEEF#32 loaded = loaded ∧ writeReg 0x04 0xFFFFFFFF#32 loaded = loaded ∧
    writeReg 0x7C 0xFFFFFFFF#32 loaded = loaded := ⟨rfl, rfl, rfl⟩

theorem test_bus_errors :
    (access ⟨0x00, 1, .write 0x04⟩ loaded).2 = .busError 0x00 1 ∧ (access ⟨0x04, 2, .read⟩ loaded).2 = .busError 0x04 2 ∧
    (access ⟨0x02, 4, .read⟩ loaded).2 = .busError 0x02 4 ∧ access ⟨0x30, 1, .write 0x04⟩ loaded = (loaded, .busError 0x30 1) :=
  ⟨rfl, rfl, rfl, rfl⟩

/-! ### Command issue (T19): the `STATUS` value right after the write -/

theorem test_issue_from_reset :
    [0x1, 0x2, 0x3, 0x4, 0x5, 0x6, 0x7, 0x8, 0x0, 0x9, 0xF, 0x12, 0x80000001, 0xFFFFFFFF].map
        (fun v => statusWord (issueCommand v State.reset)) =
      [0x01, 0x30, 0x30, 0x01, 0x01, 0x01, 0x30, 0x01, 0x20, 0x20, 0x20, 0x20, 0x20, 0x20] := by decide

theorem test_issue_keyed :
    [0x2, 0x3, 0x7, 0x10].map (fun v => statusWord (issueCommand v keyed)) = [0x05, 0x05, 0x05, 0x26] := by decide

theorem test_issue_busy :
    [0x4, 0x0].map (fun v => statusWord (issueCommand v (accept .keyexp loaded))) = [0x11, 0x11] ∧
    statusWord (issueCommand 0x4 (accept .ecbenc keyed)) = 0x15 := by decide

theorem test_issue_clears_err : statusWord (issueCommand 0x1 (reject .noKey State.reset)) = 0x01 := by decide

/-! ### Completion (T20, T16): one engine step each -/

theorem test_keyexp : ∃ t, step (completing .keyexp loaded) = .next t ∧ t.rk = rk1 ∧ statusWord t = 0x06 ∧
    t.dout = zeroBank := by
  refine ⟨_, rfl, ?_, rfl, rfl⟩
  change keyExpansion (bytesOf loaded.key) = rk1
  rw [loaded_key, test_key_expansion]

theorem test_ecbenc : ∃ t, step (completing .ecbenc keyed) = .next t ∧
    t.dout = #v[0xD8E0C469#32, 0x30047B6A#32, 0x80B7CDD8#32, 0x5AC5B470#32] ∧ t.st = c1 ∧ statusWord t = 0x06 := by
  have h : cipher (bytesOf loaded.din) (keyExpansion k1) = c1 := by rw [loaded_din, test_key_expansion, test_cipher]
  refine ⟨_, rfl, ?_, h, rfl⟩
  change wordsOf (cipher (bytesOf loaded.din) (keyExpansion k1)) = _
  rw [h, test_byte_packing.1]

/-- The block to decrypt is V1's ciphertext. -/
def keyedC : State := { keyed with din := #v[0xD8E0C469#32, 0x30047B6A#32, 0x80B7CDD8#32, 0x5AC5B470#32] }

theorem keyedC_din : bytesOf keyedC.din = c1 := by decide +kernel

theorem test_ecbdec : ∃ t, step (completing .ecbdec keyedC) = .next t ∧ t.st = p1 ∧ statusWord t = 0x06 := by
  refine ⟨_, rfl, ?_, rfl⟩
  change invCipher (bytesOf keyedC.din) (keyExpansion k1) = p1
  rw [keyedC_din, test_key_expansion, test_inv_cipher]

theorem test_ecbenck : ∃ t, step (completing .ecbenck loaded) = .next t ∧ t.st = c1 ∧ statusWord t = 0x06 := by
  refine ⟨_, rfl, ?_, rfl⟩
  change cipher (bytesOf loaded.din) (keyExpansion (bytesOf loaded.key)) = c1
  rw [loaded_din, loaded_key, test_key_expansion, test_cipher]

theorem test_ecbdeck : ∃ t, step (completing .ecbdeck { keyedC with keyValid := false, rk := zeroSchedule }) = .next t ∧
    t.st = p1 ∧ statusWord t = 0x06 := by
  refine ⟨_, rfl, ?_, rfl⟩
  change invCipher (bytesOf keyedC.din) (keyExpansion (bytesOf loaded.key)) = p1
  rw [keyedC_din, loaded_key, test_key_expansion, test_inv_cipher]

theorem test_cbcinit : ∃ t, step (completing .cbcinit loaded) = .next t ∧ t.cv = p1 ∧ t.dout = zeroBank ∧
    statusWord t = 0x06 := by
  refine ⟨_, rfl, ?_, rfl, rfl⟩
  change bytesOf loaded.iv = p1
  decide +kernel

/-- T16, third row: the same ciphertext twice gives `InvCipher(C) ^ C`. -/
theorem test_cbcdec : ∃ t, step (completing .cbcdec { keyedC with cv := c1 }) = .next t ∧ t.st = p1 ∧ t.cv = c1 ∧
    bytesOf t.dout = blockOfHex 0x69d5c2eb2e2e624750541d3bbc692ba5 := by
  have h : invCipher (bytesOf keyedC.din) (keyExpansion k1) = p1 := by
    rw [keyedC_din, test_key_expansion, test_inv_cipher]
  refine ⟨_, rfl, h, keyedC_din, ?_⟩
  change bytesOf (wordsOf (xorBlock (invCipher (bytesOf keyedC.din) (keyExpansion k1)) c1)) = _
  rw [h]
  decide +kernel

theorem test_clear : ∃ t, step (completing .clear keyedC) = .next t ∧ t.key = zeroBank ∧ t.din = zeroBank ∧
    t.rk = zeroSchedule ∧ statusWord t = 0x02 := ⟨_, rfl, rfl, rfl, rfl, rfl⟩

/-- R190, T21: a reset while `ECBENCK` is pending. -/
theorem test_reset_aborts : ∃ t, step { accept .ecbenck loaded with turns := [.reset] } = .next t ∧ t.pend = none ∧
    t.dout = zeroBank ∧ statusWord t = 0x00 := ⟨_, rfl, rfl, rfl, rfl⟩

/-- The word of a command placed on the reset state is completed by the next step; a reserved word is rejected. -/
theorem test_with_fetch_word :
    (∃ t, step (State.reset.withFetchWord 32 0x8) = .next t ∧ t.done = true ∧ t.turns = []) ∧
    (∃ t, step (State.reset.withFetchWord 32 0x12) = .next t ∧ t.err = 0x2#4 ∧ t.done = false) :=
  ⟨⟨_, rfl, rfl, rfl⟩, ⟨_, rfl, rfl, rfl⟩⟩

/-- R132: with nothing scheduled, the pending command completes before any master moves. -/
theorem test_fairness : nextTurn { accept .keyexp loaded with masters := [[.rd 0x04]] } = .engine ∧
    nextTurn { loaded with masters := [[], [.rd 0x04]] } = .master 1 ∧ nextTurn State.reset = .idle := by decide

/-- R141 (d), I2, I3: a CBC call of 17 bytes is refused, of none issues nothing. -/
theorem test_cbc_driver : cbcDecrypt (List.replicate 17 0x00) = none ∧ cbcDecrypt [] = some [] := by decide

/-! ### Witnesses: for each statement with hypotheses, states and operands that meet them -/

/-- No command: a word that decodes to nothing. -/
theorem illegal_word (i : Instr) : decode 0x80000001#32 ≠ .ok i ∧ decode 0x00000009#32 ≠ .ok i := by
  cases i <;> decide

/-- The invariant at a state with a command pending. -/
theorem witness_expanding_inv : expanding.Inv where
  busy_iff_pending := rfl
  busy_not_done _ := rfl
  err_named := ⟨.none, rfl⟩
  pending_keyed p h hn := by cases h; exact absurd hn (by decide)
  schedule_expanded h := by cases h
  no_residue _ := ⟨rfl, rfl, rfl, rfl⟩

/-- The invariant at a state with a prepared key and a command that uses it pending. -/
theorem witness_keyed_inv : (completing .ecbenc keyed).Inv where
  busy_iff_pending := rfl
  busy_not_done _ := rfl
  err_named := ⟨.none, rfl⟩
  pending_keyed _ _ _ := rfl
  schedule_expanded _ := ⟨k1, rfl⟩
  no_residue h := by cases h

theorem witness_PlatformResetAbortsAndZeroes :
    nextTurn { accept .ecbenck loaded with turns := [.reset, .engine] } = .reset := rfl

theorem witness_EveryStepKeepsTheInvariant : (completing .ecbenc keyed).Inv ∧ ∃ t, step (completing .ecbenc keyed) = .next t :=
  ⟨witness_keyed_inv, _, rfl⟩

theorem witness_NoStepStopsUnderTheInvariant : expanding.Inv := witness_expanding_inv

/-- Without a key, and with one. -/
theorem witness_ScheduleBelongsToTheLastExpandedKey :
    (expanding.HoldsKey none ∧ ∃ t, step expanding = .next t) ∧
    ((completing .ecbenc keyed).HoldsKey (some k1) ∧ ∃ t, step (completing .ecbenc keyed) = .next t) :=
  ⟨⟨⟨rfl, fun _ h => by cases h⟩, _, rfl⟩, ⟨rfl, fun _ h => by cases h; rfl⟩, _, rfl⟩

theorem witness_OnlyTheEightWordsDecode : 9 ≤ (0x00000009#32).toNat ∧ 9 ≤ (0xFFFFFFFF#32).toNat := by decide

theorem witness_DecodeAndEncodeAgree : Instr.wf .clear = true := rfl

/-- The first and the last address of the window, and the first one past it. -/
theorem witness_WindowIsTheRangeFromBase :
    (Config.aesBase ≤ Config.aesBase ∧ Config.aesBase < Config.aesBase + 0x80) ∧
    (Config.aesBase ≤ Config.aesBase + 0x7F ∧ Config.aesBase + 0x7F < Config.aesBase + 0x80) ∧
    ¬(Config.aesBase ≤ Config.aesBase + 0x80 ∧ Config.aesBase + 0x80 < Config.aesBase + 0x80) := by omega

/-- Refused by size, refused by alignment at the last offset; admitted at the first and the last word. -/
theorem witness_OnlyAlignedWordAccessesArePerformed :
    Access.wf ⟨0x30, 2, .write 0x0⟩ = false ∧ Access.wf ⟨0x7F, 4, .read⟩ = false ∧
    Access.wf ⟨0x00, 4, .read⟩ = true ∧ Access.wf ⟨0x7C, 4, .write 0x1⟩ = true := by decide

/-- The offsets beside `DIN` and `DOUT`. -/
theorem witness_ReadsFollowTheRegisterMap :
    ∀ off ∈ [0x00#7, 0x2C#7, 0x50#7, 0x7C#7], off ≠ 0x04#7 ∧
      ∀ k : Fin 4, off ≠ BitVec.ofNat 7 (0x30 + 4 * k.val) ∧ off ≠ BitVec.ofNat 7 (0x40 + 4 * k.val) := by decide +kernel

theorem witness_StatusLayout : 8 ≤ 8 ∧ 8 ≤ 31 := by decide

/-- The offsets beside the writable registers. -/
theorem witness_WritesFollowTheRegisterMap :
    ∀ off ∈ [0x04#7, 0x0C#7, 0x40#7, 0x7C#7], off ≠ 0x00#7 ∧
      ∀ k : Fin 4, off ≠ BitVec.ofNat 7 (0x10 + 4 * k.val) ∧ off ≠ BitVec.ofNat 7 (0x20 + 4 * k.val) ∧
        off ≠ BitVec.ofNat 7 (0x30 + 4 * k.val) := by decide +kernel

/-- A read, the boundary offsets, and an accepted `CMD` write with and without a key. -/
theorem witness_OnlyCmdWritesAreNotIdempotent :
    ((⟨0x04, 4, .read⟩ : Access).kind = .read ∧ (0x10#7 : Offset) ≠ 0x00#7 ∧ 0x40 ≤ (0x40#7 : Offset).toNat) ∧
    (decode 0x2 = .ok .ecbenc ∧ keyed.accepts .ecbenc) ∧ (decode 0x8 = .ok .clear ∧ loaded.accepts .clear) :=
  ⟨by decide, ⟨rfl, rfl, fun _ => rfl⟩, rfl, rfl, fun h => by cases h⟩

/-- Two states that differ in everything hidden and agree in everything visible. -/
theorem witness_HiddenStateIsNeverReadBack :
    (⟨0x10, 4, .read⟩ : Access).kind = .read ∧
    let s := loaded
    let t := { loaded with key := zeroBank, iv := zeroBank, rk := rk1, cv := c1, st := p1, pend := some (latch .clear loaded) }
    t.din = s.din ∧ t.dout = s.dout ∧ t.busy = s.busy ∧ t.done = s.done ∧ t.keyValid = s.keyValid ∧ t.err = s.err :=
  ⟨rfl, rfl, rfl, rfl, rfl, rfl, rfl⟩

/-- Master 0's `ECBENC` is accepted and the engine moves next. -/
theorem witness_StepRunsTheDecodedCommand :
    Instr.wf .ecbenc = true ∧
    let s := moving (.wr 0x00 0x2) keyed
    s.turns = .master 0 :: .engine :: [] ∧ s.masters.getD 0 [] = .wr 0x00#7 0x2 :: [.rd 0x04] ∧
    decode 0x2 = .ok .ecbenc ∧ s.accepts .ecbenc :=
  ⟨rfl, rfl, rfl, rfl, rfl, fun _ => rfl⟩

theorem witness_MasterTurnPerformsOneAccess :
    let s := moving (.wr 0x30 0x5) keyed
    nextTurn s = .master 0 ∧ s.masters.getD 0 [] = .access ⟨0x30, 4, .write 0x5⟩ :: [.rd 0x04] ∧ 1 ≠ 0 :=
  ⟨rfl, rfl, by decide⟩

/-- `WAIT` with nothing pending, and with a command pending. -/
theorem witness_PollRepeatsItsRead :
    let line := BusOp.poll 0x04 0x00000001#32 0x00000000#32
    (nextTurn (moving line keyed) = .master 0 ∧ (moving line keyed).masters.getD 0 [] = line :: [.rd 0x04] ∧
      (0x04#7 : Offset).toNat % 4 = 0 ∧ readReg 0x04 (moving line keyed) &&& 0x1 = 0x0) ∧
    (nextTurn (moving line (accept .clear keyed)) = .master 0 ∧
      (moving line (accept .clear keyed)).masters.getD 0 [] = line :: [.rd 0x04] ∧
      readReg 0x04 (moving line (accept .clear keyed)) &&& 0x1 ≠ 0x0) :=
  ⟨⟨rfl, rfl, rfl, rfl⟩, rfl, rfl, by decide⟩

/-- Busy; idle with a word that is no command; idle without a key; idle with one. -/
theorem witness_IssueAcceptsOrRejects :
    (accept .keyexp loaded).busy = true ∧
    (loaded.busy = false ∧ ∀ i, decode 0x00000009#32 ≠ .ok i) ∧
    (loaded.busy = false ∧ decode 0x2 = .ok .ecbenc ∧ loaded.keyValid = false) ∧
    (keyed.busy = false ∧ decode 0x7 = .ok .cbcdec ∧ ¬(keyed.keyValid = false)) :=
  ⟨rfl, ⟨rfl, fun i => (illegal_word i).2⟩, ⟨rfl, rfl, rfl⟩, rfl, rfl, by decide⟩

/-- A rejection of each code, and a byte write. -/
theorem witness_RejectedCommandWritesArePrecise :
    (let s := moving (.wr 0x00 0x1) (accept .keyexp loaded)
     nextTurn s = .master 0 ∧ s.masters.getD 0 [] = .wr 0x00#7 0x1 :: [.rd 0x04] ∧ s.busy = true ∧
       ∀ i, decode 0x1 = .ok i → ¬s.accepts i) ∧
    (let s := moving (.wr 0x00 0x80000001) loaded
     nextTurn s = .master 0 ∧ s.masters.getD 0 [] = .wr 0x00#7 0x80000001 :: [.rd 0x04] ∧ s.busy = false ∧
       ∀ i, decode 0x80000001 ≠ .ok i) ∧
    (let s := moving (.wr 0x00 0x2) loaded
     nextTurn s = .master 0 ∧ s.masters.getD 0 [] = .wr 0x00#7 0x2 :: [.rd 0x04] ∧ s.busy = false ∧
       decode 0x2 = .ok .ecbenc ∧ ¬s.accepts .ecbenc) ∧
    (let s := moving (.access ⟨0x00, 1, .write 0x1⟩) loaded
     nextTurn s = .master 0 ∧ s.masters.getD 0 [] = .access ⟨0x00, 1, .write 0x1⟩ :: [.rd 0x04] ∧
       Access.wf ⟨0x00, 1, .write 0x1⟩ = false) :=
  ⟨⟨rfl, rfl, rfl, fun _ _ h => by cases h.1⟩, ⟨rfl, rfl, rfl, fun i => (illegal_word i).1⟩,
    ⟨rfl, rfl, rfl, rfl, fun h => by have := h.2 rfl; cases this⟩, rfl, rfl, rfl⟩

/-- For each clause of `AnsweredAtIssue` a state, and a word with a reserved bit set beside each command's `OP`. -/
theorem witness_AnsweredAtIssue :
    (accept .keyexp loaded).busy = true ∧ (loaded.busy = false ∧ loaded.keyValid = false) ∧
    (keyed.busy = false ∧ keyed.keyValid = true) ∧
    [0x1#32, 0x2#32, 0x3#32, 0x4#32, 0x5#32, 0x6#32, 0x7#32, 0x8#32].all (fun w =>
      (w ||| 0x80000010#32).extractLsb' 0 4 == w.extractLsb' 0 4 && (w ||| 0x80000010#32).extractLsb' 4 28 != 0#28) =
      true :=
  ⟨rfl, ⟨rfl, rfl⟩, ⟨rfl, rfl⟩, by decide⟩

theorem witness_KeyexpExpandsTheLatchedKey : (accept .keyexp loaded).pend = some ⟨.keyexp, k1, p1, p1⟩ := by
  decide +kernel

theorem witness_EcbencEncryptsWithThePreparedKey : (accept .ecbenc keyed).pend = some (latch .ecbenc keyed) := rfl
theorem witness_EcbdecDecryptsWithThePreparedKey : (accept .ecbdec keyedC).pend = some (latch .ecbdec keyedC) := rfl
theorem witness_EcbenckExpandsThenEncrypts : (accept .ecbenck loaded).pend = some (latch .ecbenck loaded) := rfl
theorem witness_EcbdeckExpandsThenDecrypts : (accept .ecbdeck loaded).pend = some (latch .ecbdeck loaded) := rfl
theorem witness_CbcinitExpandsAndLoadsTheIv : (accept .cbcinit loaded).pend = some (latch .cbcinit loaded) := rfl
theorem witness_CbcdecDecryptsAndAdvancesTheChain : (accept .cbcdec keyedC).pend = some (latch .cbcdec keyedC) := rfl
theorem witness_ClearZeroisesEverything : (accept .clear keyedC).pend = some (latch .clear keyedC) := rfl
theorem witness_CompletionNeedsAPendingCommand : keyed.pend = none := rfl

/-- A completion of each kind: it expands a key, it produces a block, both, it clears. -/
theorem witness_CompletionWritesOnlyItsRow :
    ∀ i ∈ [Instr.keyexp, .ecbenc, .ecbenck, .cbcinit, .cbcdec, .clear],
      (completing i keyed).completes (latch i keyed) ∧ ∃ t, step (completing i keyed) = .next t := by
  intro i _
  exact ⟨⟨rfl, rfl, rfl⟩, by cases i <;> exact ⟨_, rfl⟩⟩

/-- A master's write to `KEY2` with a command pending: no reset, no completion. -/
theorem witness_ResultsChangeOnlyAtCompletionOrReset :
    let s := moving (.wr 0x18 0x5) (accept .ecbenc keyed)
    (∃ t, step s = .next t) ∧ nextTurn s ≠ .reset ∧ ∀ p, ¬s.completes p :=
  ⟨⟨_, rfl⟩, by decide, fun _ h => by cases h.1⟩

/-- A write to `KEY2`, and the completion of `ECBENC`. -/
theorem witness_OperandRegistersChangeOnlyByHostWriteOrClear :
    (let s := moving (.wr 0x18 0x5) keyed
     (∃ t, step s = .next t) ∧ nextTurn s ≠ .reset ∧ ∀ p, s.completes p → p.op ≠ .clear) ∧
    (let s := completing .ecbenc keyed
     (∃ t, step s = .next t) ∧ nextTurn s ≠ .reset ∧ ∀ p, s.completes p → p.op ≠ .clear) :=
  ⟨⟨⟨_, rfl⟩, by decide, fun _ h => by cases h.1⟩, ⟨_, rfl⟩, by decide,
    fun _ h => by have := h.2.2; cases this; decide⟩

/-- `BUSY` rises with an accepted write, falls with a completion and with a reset. -/
theorem witness_BusyFollowsAcceptanceAndCompletion :
    (let s := moving (.wr 0x00 0x2) keyed
     s.busy = false ∧ s.presents 0 0x2 ∧ decode 0x2 = .ok .ecbenc ∧ s.accepts .ecbenc ∧
       ∃ t, step s = .next t ∧ t.busy = true) ∧
    (let s := completing .ecbenc keyed
     s.busy = true ∧ s.completes (latch .ecbenc keyed) ∧ s.Inv ∧ ∃ t, step s = .next t ∧ t.busy = false) ∧
    (let s := { accept .ecbenc keyed with turns := [.reset] }
     s.busy = true ∧ nextTurn s = .reset ∧ ∃ t, step s = .next t ∧ t.busy = false) :=
  ⟨⟨rfl, ⟨rfl, _, rfl⟩, rfl, ⟨rfl, fun _ => rfl⟩, _, rfl, rfl⟩,
    ⟨rfl, ⟨rfl, rfl, rfl⟩, witness_keyed_inv, _, rfl, rfl⟩, rfl, rfl, _, rfl, rfl⟩

/-- An acceptance, a completion, a reset, and a rejected write, each a step. -/
theorem witness_DoneFollowsCompletion :
    (let s := moving (.wr 0x00 0x2) keyed
     s.presents 0 0x2 ∧ decode 0x2 = .ok .ecbenc ∧ s.accepts .ecbenc) ∧
    (let s := completing .ecbenc keyed
     s.completes (latch .ecbenc keyed) ∧ s.Inv ∧ s.busy = true ∧ ∃ t, step s = .next t) ∧
    (let s := { keyed with turns := [.reset] }
     nextTurn s = .reset ∧ ∃ t, step s = .next t) ∧
    (let s := moving (.wr 0x00 0x80000001) keyed
     (∃ t, step s = .next t) ∧ nextTurn s ≠ .reset ∧ (∀ p, ¬s.completes p) ∧
       ∀ m v i, s.presents m v → decode v = .ok i → ¬s.accepts i) := by
  refine ⟨⟨⟨rfl, _, rfl⟩, rfl, rfl, fun _ => rfl⟩, ⟨⟨rfl, rfl, rfl⟩, witness_keyed_inv, rfl, _, rfl⟩,
    ⟨rfl, _, rfl⟩, ⟨_, rfl⟩, by decide, (fun _ h => by cases h.1), ?_⟩
  intro m v i h hd
  obtain ⟨hm, rest, hl⟩ := h
  cases hm
  cases hl
  exact absurd hd (illegal_word i).1

/-- A write elsewhere; a reset; a `CMD` write in each of the four cases. -/
theorem witness_ErrDescribesTheLastCommandWrite :
    (let s := moving (.wr 0x30 0x2) loaded
     (∃ t, step s = .next t) ∧ nextTurn s ≠ .reset ∧ ∀ m v, ¬s.presents m v) ∧
    (nextTurn { keyed with turns := [.reset] } = .reset ∧ ∃ t, step { keyed with turns := [.reset] } = .next t) ∧
    (let s := moving (.wr 0x00 0x1) (accept .keyexp loaded)
     s.presents 0 0x1 ∧ s.busy = true) ∧
    (let s := moving (.wr 0x00 0x9) loaded
     s.presents 0 0x9 ∧ s.busy = false ∧ ∀ i, decode 0x00000009#32 ≠ .ok i) ∧
    (let s := moving (.wr 0x00 0x7) loaded
     s.presents 0 0x7 ∧ s.busy = false ∧ decode 0x7 = .ok .cbcdec ∧ needsKey .cbcdec = true ∧ s.keyValid = false) ∧
    (let s := moving (.wr 0x00 0x4) loaded
     s.presents 0 0x4 ∧ decode 0x4 = .ok .ecbenck ∧ s.accepts .ecbenck) := by
  refine ⟨⟨⟨_, rfl⟩, by decide, ?_⟩, ⟨rfl, _, rfl⟩, ⟨⟨rfl, _, rfl⟩, rfl⟩,
    ⟨⟨rfl, _, rfl⟩, rfl, fun i => (illegal_word i).2⟩, ⟨⟨rfl, _, rfl⟩, rfl, rfl, rfl, rfl⟩,
    ⟨rfl, _, rfl⟩, rfl, rfl, fun h => by cases h⟩
  intro m v h
  obtain ⟨hm, rest, hl⟩ := h
  cases hm
  cases hl

/-- A command other than `CLEAR`, and `CLEAR`. -/
theorem witness_OperandWritesNeverReachAPendingCommand :
    (∃ t, exec .cbcdec (accept .cbcdec keyedC) = .next t) ∧ (∃ t, exec .clear (accept .clear keyedC) = .next t) :=
  ⟨⟨_, rfl⟩, _, rfl⟩

/-- Two states that agree on what `CBCDEC` reads and differ in `DIN`, `KEY` and `DOUT`. -/
theorem witness_ResultsDependOnlyOnTheOperands :
    let s := accept .cbcdec keyedC
    let s' := { s with key := zeroBank, din := zeroBank, dout := s.key }
    s'.pend = s.pend ∧ s'.rk = s.rk ∧ s'.cv = s.cv ∧ (∃ t, exec .cbcdec s = .next t) ∧ (∃ t, exec .cbcdec s' = .next t) ∧
    producesBlock .cbcdec = true ∧ expandsKey .ecbenck = true :=
  ⟨rfl, rfl, rfl, ⟨_, rfl⟩, ⟨_, rfl⟩, rfl, rfl⟩

/-- The same state with a reset before the engine's turn. -/
def resetting : State := { expanding with turns := [.idle, .reset, .engine] }

theorem witness_resetting_inv : resetting.Inv where
  busy_iff_pending := rfl
  busy_not_done _ := rfl
  err_named := ⟨.none, rfl⟩
  pending_keyed p h hn := by cases h; exact absurd hn (by decide)
  schedule_expanded h := by cases h
  no_residue _ := ⟨rfl, rfl, rfl, rfl⟩

/-- A pending command two steps from its completion, one two steps from a reset, and schedules within a bound: at the
bound, and with nothing left. -/
theorem witness_EveryAcceptedCommandCompletes :
    (expanding.Inv ∧ expanding.busy = true ∧ stepsToCompletion expanding.turns = 2 ∧
      resetComesFirst expanding.turns = false) ∧
    (resetting.Inv ∧ resetting.busy = true ∧ stepsToCompletion resetting.turns = 2 ∧
      resetComesFirst resetting.turns = true) ∧
    withinLatency 2 2 [.master 0, .idle, .engine, .master 1] = true ∧ withinLatency 2 0 [.engine] = true :=
  ⟨⟨witness_expanding_inv, rfl, rfl, rfl⟩, ⟨witness_resetting_inv, rfl, rfl, rfl⟩, rfl, rfl⟩

theorem witness_XtimeDoublesInTheField : (0x7F#8).getLsbD 7 = false ∧ (0x80#8).getLsbD 7 = true := by decide
theorem witness_GfMulIsTheFieldProduct : (0x0E#8 = 0x0E#8) ∧ (0x01#8 = 0x01#8) := ⟨rfl, rfl⟩
theorem witness_SboxIsTheAlgebraicOne : (0xFF#8 : Byte) ≠ 0x00#8 := by decide

/-- T10: a state whose rows are each constant. -/
theorem witness_ShiftRowsRotatesLeft :
    let s := blockOfHex 0x00112233001122330011223300112233
    ∀ r c : Fin 4, s[r.val + 4 * c.val] = s[r.val] := by decide +kernel

theorem witness_InvShiftRowsRotatesRight :
    let s := blockOfHex 0x00112233001122330011223300112233
    ∀ r c : Fin 4, s[r.val + 4 * c.val] = s[r.val] := by decide +kernel

/-- The first and the last round with MixColumns. -/
theorem witness_CipherIsElevenRounds : 1 ≤ (1 : Fin 11).val ∧ (9 : Fin 11).val ≤ 9 := by decide
theorem witness_InvCipherIsElevenRounds : 1 ≤ (1 : Fin 11).val ∧ (9 : Fin 11).val ≤ 9 := by decide

/-- A message of two blocks, the second one's plaintext bound by both lengths. -/
theorem witness_CbcMessageIsChained : 1 < [p1, c1].length := by decide

end Sys2Proof.Tests
end

/-! SUPPORT. Proofs of the statements about the engine's state (10_state.md): reset, the invariant, who may write each
piece of state, what a read can see. -/

namespace Sys2Proof.Machine

/-! ### Where the writable registers stand (R41) -/

theorem regAt_eq_cmd {off : Offset} (h : regAt off = .cmd) : off = 0x00#7 := by
  revert off; decide

theorem regAt_eq_key {off : Offset} {k : Fin 4} (h : regAt off = .key k) : off = BitVec.ofNat 7 (0x10 + 4 * k.val) := by
  revert off k; decide

theorem regAt_eq_iv {off : Offset} {k : Fin 4} (h : regAt off = .iv k) : off = BitVec.ofNat 7 (0x20 + 4 * k.val) := by
  revert off k; decide

theorem regAt_eq_din {off : Offset} {k : Fin 4} (h : regAt off = .din k) : off = BitVec.ofNat 7 (0x30 + 4 * k.val) := by
  revert off k; decide

/-! ### The answer to a command write, by its case (R130) -/

theorem issueCommand_of_busy (v : Word) {s : State} (hb : s.busy = true) : issueCommand v s = reject .busy s := by
  simp [issueCommand, hb]

theorem issueCommand_of_undecodable {v : Word} {s : State} (hb : s.busy = false) (hd : ∀ i, decode v ≠ .ok i) :
    issueCommand v s = reject .illegalCmd s := by
  cases he : decode v with
  | error e => simp [issueCommand, hb, he]
  | ok i => exact absurd he (hd i)

theorem issueCommand_of_noKey {v : Word} {i : Instr} {s : State} (hb : s.busy = false) (hd : decode v = .ok i)
    (hn : needsKey i = true) (hk : s.keyValid = false) : issueCommand v s = reject .noKey s := by
  simp [issueCommand, hb, hd, hn, hk]

theorem issueCommand_of_accepts {v : Word} {i : Instr} {s : State} (hd : decode v = .ok i) (ha : s.accepts i) :
    issueCommand v s = accept i s := by
  obtain ⟨hb, hk⟩ := ha
  cases hn : needsKey i with
  | false => simp [issueCommand, hb, hd, hn]
  | true => simp [issueCommand, hb, hd, hk hn]

/-- A command write is rejected, which writes `ERR` alone, or accepted. -/
theorem issueCommand_rejects_or_accepts (v : Word) (s : State) :
    (∃ e, issueCommand v s = reject e s) ∨ (∃ i, decode v = .ok i ∧ s.accepts i ∧ issueCommand v s = accept i s) := by
  rcases issueCommand_cases v s with ⟨_, h⟩ | ⟨_, _, h⟩ | ⟨_, _, _, _, _, h⟩ | ⟨i, hb, hd, hk, h⟩
  · exact .inl ⟨_, h⟩
  · exact .inl ⟨_, h⟩
  · exact .inl ⟨_, h⟩
  · exact .inr ⟨i, hd, ⟨hb, hk⟩, h⟩

/-! ### What a step leaves as it was -/

/-- `t` has the results of `s`: what only a completion or a reset writes (R25, R30, R33, R34, R35). -/
structure State.SameResults (s t : State) : Prop where
  dout : t.dout = s.dout
  rk : t.rk = s.rk
  cv : t.cv = s.cv
  st : t.st = s.st
  keyValid : t.keyValid = s.keyValid

/-- `t` has all of the engine's state of `s` but for the operand registers `KEY`, `IV` and `DIN`. -/
structure State.SameEngine (s t : State) : Prop extends s.SameResults t where
  busy : t.busy = s.busy
  done : t.done = s.done
  err : t.err = s.err
  pend : t.pend = s.pend

theorem State.SameEngine.refl (s : State) : s.SameEngine s := ⟨⟨rfl, rfl, rfl, rfl, rfl⟩, rfl, rfl, rfl, rfl⟩

theorem sameEngine_takeTurn (s : State) : s.SameEngine (takeTurn s) := { State.SameEngine.refl s with }

/-- Recording an answer touches the host's side only. -/
theorem State.SameEngine.recordReply {s t : State} (h : s.SameEngine t) (m : Nat) (l : List BusOp) (r : Reply) :
    s.SameEngine (recordReply m l r t) := { h with }

theorem sameResults_issueCommand (v : Word) (s : State) : s.SameResults (issueCommand v s) := by
  rcases issueCommand_rejects_or_accepts v s with ⟨e, h⟩ | ⟨i, _, _, h⟩ <;> rw [h] <;> exact ⟨rfl, rfl, rfl, rfl, rfl⟩

/-- The bank `old` standing at `base` is unchanged in `new`, or one of its words holds what the step of `s` writes at
that word's offset (R45). -/
def State.BankFollowsWrite (s : State) (base : Nat) (old new : RegBank) : Prop :=
  new = old ∨ ∃ m v, ∃ k : Fin 4, s.writes m (BitVec.ofNat 7 (base + 4 * k.val)) v ∧ new = old.set k v

/-- Each operand register bank follows the write that the step of `s` performs (R22, R23, R24). -/
structure State.OperandsFollowWrite (s t : State) : Prop where
  key : s.BankFollowsWrite 0x10 s.key t.key
  iv : s.BankFollowsWrite 0x20 s.iv t.iv
  din : s.BankFollowsWrite 0x30 s.din t.din

theorem State.OperandsFollowWrite.of_eq {s t : State} (hk : t.key = s.key) (hi : t.iv = s.iv) (hd : t.din = s.din) :
    s.OperandsFollowWrite t := ⟨.inl hk, .inl hi, .inl hd⟩

theorem State.OperandsFollowWrite.recordReply {s t : State} (h : s.OperandsFollowWrite t) (m : Nat) (l : List BusOp)
    (r : Reply) : s.OperandsFollowWrite (recordReply m l r t) := { h with }

/-- A register write the step performs either presents a command or changes at most one operand bank. -/
theorem writes_effect {s : State} {m : Nat} {off : Offset} {v : Word} (hw : s.writes m off v) :
    (s.presents m v ∧ writeReg off v (takeTurn s) = issueCommand v (takeTurn s)) ∨
    (s.SameEngine (writeReg off v (takeTurn s)) ∧ s.OperandsFollowWrite (writeReg off v (takeTurn s))) := by
  rcases writeReg_cases off v (takeTurn s) with ⟨hr, h⟩ | ⟨k, hr, h⟩ | ⟨k, hr, h⟩ | ⟨k, hr, h⟩ | h
  · obtain rfl := regAt_eq_cmd hr
    obtain ⟨ht, _, hl⟩ := hw
    exact .inl ⟨⟨ht, hl⟩, h⟩
  all_goals refine .inr ?_; rw [h]
  · obtain rfl := regAt_eq_key hr
    exact ⟨{ sameEngine_takeTurn s with }, .inr ⟨m, v, k, hw, rfl⟩, .inl rfl, .inl rfl⟩
  · obtain rfl := regAt_eq_iv hr
    exact ⟨{ sameEngine_takeTurn s with }, .inl rfl, .inr ⟨m, v, k, hw, rfl⟩, .inl rfl⟩
  · obtain rfl := regAt_eq_din hr
    exact ⟨{ sameEngine_takeTurn s with }, .inl rfl, .inl rfl, .inr ⟨m, v, k, hw, rfl⟩⟩
  · exact ⟨sameEngine_takeTurn s, .of_eq rfl rfl rfl⟩

/-- The four kinds of step, seen from the engine's state: a reset, a completion, a command write, or a step that writes
the operand registers at most. -/
theorem step_effect {s t : State} (h : step s = .next t) :
    (nextTurn s = .reset ∧ t = platformReset (takeTurn s)) ∨
    (∃ p, s.completes p ∧ t = finish (bodyOf p.op p (takeTurn s))) ∨
    (∃ m v l, s.presents m v ∧ t = recordReply m l .done (issueCommand v (takeTurn s))) ∨
    (s.SameEngine t ∧ s.OperandsFollowWrite t) := by
  rcases step_cases h with ⟨_, rfl⟩ | hreset | hdone | ⟨_, _, rfl⟩ | ⟨_, _, rfl⟩ | ⟨m, l, r, _, rfl⟩ |
    ⟨m, off, v, l, hw, rfl⟩
  · exact .inr (.inr (.inr ⟨sameEngine_takeTurn s, .of_eq rfl rfl rfl⟩))
  · exact .inl hreset
  · exact .inr (.inl hdone)
  · exact .inr (.inr (.inr ⟨sameEngine_takeTurn s, .of_eq rfl rfl rfl⟩))
  · exact .inr (.inr (.inr ⟨sameEngine_takeTurn s, .of_eq rfl rfl rfl⟩))
  · exact .inr (.inr (.inr ⟨(sameEngine_takeTurn s).recordReply m l r, .of_eq rfl rfl rfl⟩))
  · rcases writes_effect hw with ⟨hp, hc⟩ | ⟨hs, ho⟩
    · exact .inr (.inr (.inl ⟨m, v, l, hp, by rw [hc]⟩))
    · exact .inr (.inr (.inr ⟨hs.recordReply m l .done, ho.recordReply m l .done⟩))

/-! ### The step of each kind, forwards -/

theorem step_of_reset {s : State} (h : nextTurn s = .reset) : step s = .next (platformReset (takeTurn s)) := by
  simp [step, h, perform]

theorem step_of_completes {s : State} {p : Pending} (h : s.completes p) :
    step s = .next (finish (bodyOf p.op p (takeTurn s))) := by
  obtain ⟨ht, hb, hp⟩ := h
  have hp' : (takeTurn s).pend = some p := hp
  simp [step, ht, perform, engineTurn, hb, hp, exec_eq_completeWith, completeWith_of_pending _ hp']

theorem step_of_presents {s : State} {m : Nat} {v : Word} (h : s.presents m v) :
    ∃ l, step s = .next (recordReply m l .done (issueCommand v (takeTurn s))) := by
  obtain ⟨ht, rest, hl⟩ := h
  refine ⟨rest, ?_⟩
  simp only [step, ht, perform, masterTurn, takeTurn_masters, hl]
  rfl

theorem step_of_accepted {s : State} {m : Nat} {v : Word} {i : Instr} (hp : s.presents m v) (hd : decode v = .ok i)
    (ha : s.accepts i) : ∃ l, step s = .next (recordReply m l .done (accept i (takeTurn s))) := by
  have ha' : (takeTurn s).accepts i := ha
  rw [← issueCommand_of_accepts hd ha']
  exact step_of_presents hp

theorem eq_of_reset {s t : State} (hr : nextTurn s = .reset) (h : step s = .next t) :
    t = platformReset (takeTurn s) := by
  simpa [step_of_reset hr] using h.symm

theorem eq_of_completes {s t : State} {p : Pending} (hc : s.completes p) (h : step s = .next t) :
    t = finish (bodyOf p.op p (takeTurn s)) := by
  simpa [step_of_completes hc] using h.symm

/-! ### What the bodies write (R65) -/

/-- A command expands a key, uses the prepared one, or is `CLEAR`. -/
theorem expandsKey_or_needsKey_or_clear (i : Instr) : expandsKey i = true ∨ needsKey i = true ∨ i = .clear := by
  cases i with
  | keyexp | ecbenck | ecbdeck | cbcinit => exact .inl rfl
  | ecbenc | ecbdec | cbcdec => exact .inr (.inl rfl)
  | clear => exact .inr (.inr rfl)

theorem not_expandsKey_and_ne_clear_of_needsKey {i : Instr} (h : needsKey i = true) :
    ¬expandsKey i = true ∧ i ≠ .clear := by
  cases i with
  | ecbenc | ecbdec | cbcdec => decide
  | keyexp | ecbenck | ecbdeck | cbcinit | clear => cases h

@[simp] theorem bodyOf_err (i : Instr) (p : Pending) (s : State) : (bodyOf i p s).err = s.err := by
  cases i <;> rfl

theorem bodyOf_operands {i : Instr} (h : i ≠ .clear) (p : Pending) (s : State) :
    (bodyOf i p s).key = s.key ∧ (bodyOf i p s).iv = s.iv ∧ (bodyOf i p s).din = s.din := by
  cases i with
  | clear => exact absurd rfl h
  | _ => exact ⟨rfl, rfl, rfl⟩

theorem bodyOf_of_expandsKey {i : Instr} (h : expandsKey i = true) (p : Pending) (s : State) :
    (bodyOf i p s).keyValid = true ∧ (bodyOf i p s).rk = keyExpansion p.key := by
  cases i with
  | keyexp | ecbenck | ecbdeck | cbcinit => exact ⟨rfl, rfl⟩
  | ecbenc | ecbdec | cbcdec | clear => cases h

theorem bodyOf_of_needsKey {i : Instr} (h : needsKey i = true) (p : Pending) (s : State) :
    (bodyOf i p s).keyValid = s.keyValid ∧ (bodyOf i p s).rk = s.rk := by
  cases i with
  | ecbenc | ecbdec | cbcdec => exact ⟨rfl, rfl⟩
  | keyexp | ecbenck | ecbdeck | cbcinit | clear => cases h

/-! ### The invariant -/

/-- The invariant does not speak of the operand registers, nor of the host's side. -/
theorem State.Inv.of_sameEngine {s t : State} (hi : s.Inv) (h : s.SameEngine t) : t.Inv := by
  obtain ⟨⟨hdout, hrk, hcv, hst, hkv⟩, hb, hd, he, hp⟩ := h
  constructor
  · rw [hb, hp]; exact hi.busy_iff_pending
  · rw [hb, hd]; exact hi.busy_not_done
  · rw [he]; exact hi.err_named
  · rw [hp, hkv]; exact hi.pending_keyed
  · rw [hkv, hrk]; exact hi.schedule_expanded
  · rw [hkv, hrk, hcv, hst, hdout]; exact hi.no_residue

theorem inv_platformReset (s : State) : (platformReset s).Inv where
  busy_iff_pending := rfl
  busy_not_done h := by cases h
  err_named := ⟨.none, rfl⟩
  pending_keyed _ h := by cases h
  schedule_expanded h := by cases h
  no_residue _ := ⟨rfl, rfl, rfl, rfl⟩

theorem State.Inv.reject {s : State} (hi : s.Inv) (e : ErrName) : (reject e s).Inv :=
  { hi with err_named := ⟨e, rfl⟩ }

theorem State.Inv.accept {s : State} {i : Instr} (hi : s.Inv) (ha : s.accepts i) : (accept i s).Inv where
  busy_iff_pending := rfl
  busy_not_done _ := rfl
  err_named := ⟨.none, rfl⟩
  pending_keyed _ h := by cases h; exact ha.2
  schedule_expanded := hi.schedule_expanded
  no_residue := hi.no_residue

theorem State.Inv.issueCommand {s : State} (hi : s.Inv) (v : Word) : (issueCommand v s).Inv := by
  rcases issueCommand_rejects_or_accepts v s with ⟨e, h⟩ | ⟨i, _, ha, h⟩ <;> rw [h]
  · exact hi.reject e
  · exact hi.accept ha

/-- A completion keeps the invariant: a key-expanding command leaves an expansion, a command that uses the prepared key
was pending with one and leaves the schedule, `CLEAR` zeroes what the last clause asks for. -/
theorem State.Inv.finish_bodyOf {s : State} {p : Pending} (hi : s.Inv) (hp : s.pend = some p) :
    (finish (bodyOf p.op p s)).Inv where
  busy_iff_pending := rfl
  busy_not_done h := by cases h
  err_named := by simpa using hi.err_named
  pending_keyed _ h := by cases h
  schedule_expanded h := by
    rcases expandsKey_or_needsKey_or_clear p.op with he | hn | hc
    · exact ⟨p.key, (bodyOf_of_expandsKey he p s).2⟩
    · obtain ⟨k, hk⟩ := hi.schedule_expanded (hi.pending_keyed p hp hn)
      exact ⟨k, (bodyOf_of_needsKey hn p s).2.trans hk⟩
    · rw [hc] at h; cases h
  no_residue h := by
    rw [finish_keyValid] at h
    rcases expandsKey_or_needsKey_or_clear p.op with he | hn | hc
    · simp [bodyOf_of_expandsKey he] at h
    · simp [bodyOf_of_needsKey hn, hi.pending_keyed p hp hn] at h
    · rw [hc]; exact ⟨rfl, rfl, rfl, rfl⟩

/-- Settles O4, by the kind of step. -/
theorem everyStepKeepsTheInvariant : Obligations.EveryStepKeepsTheInvariant := by
  intro s t hi h
  have hi' : (takeTurn s).Inv := hi.of_sameEngine (sameEngine_takeTurn s)
  rcases step_effect h with ⟨_, rfl⟩ | ⟨p, ⟨_, _, hp⟩, rfl⟩ | ⟨m, v, l, _, rfl⟩ | ⟨hs, _⟩
  · exact inv_platformReset _
  · exact hi'.finish_bodyOf hp
  · exact (hi'.issueCommand v).of_sameEngine ((State.SameEngine.refl _).recordReply m l .done)
  · exact hi.of_sameEngine hs

/-! ### The results and the operand registers -/

/-- Settles O33: the steps left are a command write and one that writes the operand registers at most. -/
theorem resultsChangeOnlyAtCompletionOrReset : Obligations.ResultsChangeOnlyAtCompletionOrReset := by
  intro s t h hr hc
  have hs : s.SameResults t := by
    rcases step_effect h with ⟨hr', _⟩ | ⟨p, hp, _⟩ | ⟨m, v, l, _, rfl⟩ | ⟨hs, _⟩
    · exact absurd hr' hr
    · exact absurd hp (hc p)
    · obtain ⟨hdout, hrk, hcv, hst, hkv⟩ := sameResults_issueCommand v (takeTurn s)
      exact ⟨hdout, hrk, hcv, hst, hkv⟩
    · exact hs.toSameResults
  exact ⟨hs.dout, hs.rk, hs.cv, hs.st, hs.keyValid⟩

/-- Settles O34: of the steps left only a write to a word of a bank changes that bank. -/
theorem operandRegistersChangeOnlyByHostWriteOrClear : Obligations.OperandRegistersChangeOnlyByHostWriteOrClear := by
  intro s t h hr hc
  have ho : s.OperandsFollowWrite t := by
    rcases step_effect h with ⟨hr', _⟩ | ⟨p, hp, rfl⟩ | ⟨m, v, l, _, rfl⟩ | ⟨_, ho⟩
    · exact absurd hr' hr
    · obtain ⟨hk, hi, hd⟩ := bodyOf_operands (hc p hp) p (takeTurn s)
      exact .of_eq hk hi hd
    · rcases issueCommand_rejects_or_accepts v (takeTurn s) with ⟨e, he⟩ | ⟨i, _, _, he⟩ <;> rw [he] <;>
        exact .of_eq rfl rfl rfl
    · exact ho
  exact ⟨ho.key, ho.iv, ho.din⟩

/-! ### The key beside a run -/

theorem keyAfterStep_of_reset {s : State} (k : Option Block) (h : nextTurn s = .reset) : keyAfterStep k s = none := by
  simp [keyAfterStep, h]

theorem keyAfterStep_of_completes {s : State} {p : Pending} (k : Option Block) (h : s.completes p) :
    keyAfterStep k s = if expandsKey p.op then some p.key else if p.op = .clear then none else k := by
  obtain ⟨ht, hb, hp⟩ := h
  simp [keyAfterStep, ht, hb, hp]

theorem keyAfterStep_of_other {s : State} (k : Option Block) (hr : nextTurn s ≠ .reset) (hc : ∀ p, ¬s.completes p) :
    keyAfterStep k s = k := by
  cases ht : nextTurn s with
  | reset => exact absurd ht hr
  | master m => simp [keyAfterStep, ht]
  | idle => simp [keyAfterStep, ht]
  | engine =>
    cases hb : s.busy with
    | false => simp [keyAfterStep, ht, hb]
    | true =>
      cases hp : s.pend with
      | none => simp [keyAfterStep, ht, hb, hp]
      | some p => exact absurd ⟨ht, hb, hp⟩ (hc p)

/-- A completion moves `KEYVALID` and `RK` as it moves the key beside the run. -/
theorem holdsKey_of_completes {s : State} {p : Pending} {k : Option Block} (hc : s.completes p) (hk : s.HoldsKey k) :
    (finish (bodyOf p.op p (takeTurn s))).HoldsKey (keyAfterStep k s) := by
  rw [keyAfterStep_of_completes k hc]
  rcases expandsKey_or_needsKey_or_clear p.op with he | hn | hcl
  · obtain ⟨hv, hrk⟩ := bodyOf_of_expandsKey he p (takeTurn s)
    rw [if_pos he]
    exact ⟨hv, fun key h => by cases h; exact hrk⟩
  · obtain ⟨he, hcl⟩ := not_expandsKey_and_ne_clear_of_needsKey hn
    obtain ⟨hv, hrk⟩ := bodyOf_of_needsKey hn p (takeTurn s)
    rw [if_neg he, if_neg hcl]
    exact ⟨hv.trans hk.1, fun key h => hrk.trans (hk.2 key h)⟩
  · rw [hcl]
    exact ⟨rfl, fun key h => by cases h⟩

/-- Settles O6: a reset forgets the key, a completion moves it with the schedule, and no other step changes either. -/
theorem scheduleBelongsToTheLastExpandedKey : Obligations.ScheduleBelongsToTheLastExpandedKey := by
  refine ⟨⟨rfl, fun key h => by cases h⟩, fun s t k hk h => ?_⟩
  by_cases hr : nextTurn s = .reset
  · rw [eq_of_reset hr h, keyAfterStep_of_reset k hr]
    exact ⟨rfl, fun key h => by cases h⟩
  · by_cases hc : ∃ p, s.completes p
    · obtain ⟨p, hc⟩ := hc
      rw [eq_of_completes hc h]
      exact holdsKey_of_completes hc hk
    · have hc' : ∀ p, ¬s.completes p := not_exists.mp hc
      obtain ⟨_, hrk, _, _, hv⟩ := resultsChangeOnlyAtCompletionOrReset s t h hr hc'
      rw [keyAfterStep_of_other k hr hc']
      exact ⟨hv.trans hk.1, fun key hkey => hrk.trans (hk.2 key hkey)⟩

/-! ### What a read can see -/

theorem readReg_congr {s s' : State} (off : Offset) (hdin : s'.din = s.din) (hdout : s'.dout = s.dout)
    (hstatus : statusWord s' = statusWord s) : readReg off s' = readReg off s := by
  unfold readReg
  cases regAt off with
  | status => exact hstatus
  | din k => simp only [regValue, hdin]
  | dout k => simp only [regValue, hdout]
  | _ => rfl

/-- Settles O17: a bus error does not look at the state, and a read looks at `DIN`, `DOUT` and `STATUS` only. -/
theorem hiddenStateIsNeverReadBack : Obligations.HiddenStateIsNeverReadBack := by
  intro a s s' hread hdin hdout hbusy hdone hkv herr
  have hstatus : statusWord s' = statusWord s := by simp only [statusWord, hbusy, hdone, hkv, herr]
  have hreg := readReg_congr a.off hdin hdout hstatus
  simp only [access, hread, hreg]
  split <;> rfl

/-! ### The flags -/

/-- Settles O35: only an acceptance sets `BUSY`, only `finish` and a reset clear it, and a rejection leaves it. -/
theorem busyFollowsAcceptanceAndCompletion : Obligations.BusyFollowsAcceptanceAndCompletion := by
  refine ⟨?_, ?_, ?_, ?_, ?_, ?_⟩
  · intro s t h hs ht
    rcases step_effect h with ⟨_, rfl⟩ | ⟨p, _, rfl⟩ | ⟨m, v, l, hp, rfl⟩ | ⟨hsame, _⟩
    · cases ht
    · cases ht
    · rcases issueCommand_rejects_or_accepts v (takeTurn s) with ⟨e, he⟩ | ⟨i, hd, ha, he⟩ <;> rw [he] at ht ⊢
      · simp [hs] at ht
      · exact ⟨m, v, i, hp, hd, ha, rfl⟩
    · simp [hsame.busy, hs] at ht
  · intro s m v i hp hd ha
    obtain ⟨l, h⟩ := step_of_accepted hp hd ha
    exact ⟨_, h, rfl⟩
  · intro s t h hs ht
    rcases step_effect h with ⟨hr, _⟩ | ⟨p, hc, _⟩ | ⟨m, v, l, _, rfl⟩ | ⟨hsame, _⟩
    · exact .inl hr
    · exact .inr ⟨p, hc⟩
    · simp [issueCommand_of_busy v (s := takeTurn s) hs, hs] at ht
    · simp [hsame.busy, hs] at ht
  · intro s t p hc h
    rw [eq_of_completes hc h, finish_busy]
  · intro s t hr h
    rw [eq_of_reset hr h, platformReset_busy]
  · intro s hi
    rw [hi.busy_iff_pending, Option.isSome_iff_ne_none]

/-- Settles O36: a rejected command write, like a step that writes the operand registers at most, leaves `DONE`. -/
theorem doneFollowsCompletion : Obligations.DoneFollowsCompletion := by
  refine ⟨?_, ?_, ?_, ?_, rfl, fun s hi => hi.busy_not_done⟩
  · intro s m v i hp hd ha
    obtain ⟨l, h⟩ := step_of_accepted hp hd ha
    exact ⟨_, h, rfl⟩
  · intro s t p hc h
    rw [eq_of_completes hc h, finish_done]
  · intro s t hr h
    rw [eq_of_reset hr h, platformReset_done]
  · intro s t h hr hc hna
    rcases step_effect h with ⟨hr', _⟩ | ⟨p, hp, _⟩ | ⟨m, v, l, hp, rfl⟩ | ⟨hsame, _⟩
    · exact absurd hr' hr
    · exact absurd hp (hc p)
    · rcases issueCommand_rejects_or_accepts v (takeTurn s) with ⟨e, he⟩ | ⟨i, hd, ha, _⟩
      · simp [he]
      · exact absurd ha (hna m v i hp hd)
    · exact hsame.done

/-- Settles O37: bodies and `finish` leave `ERR`, and each answer to a command write gives its own code. -/
theorem errDescribesTheLastCommandWrite : Obligations.ErrDescribesTheLastCommandWrite := by
  refine ⟨?_, ?_, ?_⟩
  · intro s t h hr hnp
    rcases step_effect h with ⟨hr', _⟩ | ⟨p, _, rfl⟩ | ⟨m, v, l, hp, _⟩ | ⟨hsame, _⟩
    · exact absurd hr' hr
    · simp
    · exact absurd hp (hnp m v)
    · exact hsame.err
  · intro s t hr h
    rw [eq_of_reset hr h, platformReset_err]
  · intro s m v hp
    obtain ⟨l, h⟩ := step_of_presents hp
    refine ⟨_, h, fun hb => ?_, fun hb hd => ?_, fun i hb hd hn hk => ?_, fun i hd ha => ?_⟩
    · rw [issueCommand_of_busy v (s := takeTurn s) hb]; rfl
    · rw [issueCommand_of_undecodable (s := takeTurn s) hb hd]; rfl
    · rw [issueCommand_of_noKey (s := takeTurn s) hb hd hn hk]; rfl
    · rw [issueCommand_of_accepts (s := takeTurn s) hd ha]; rfl

/-! ### Reset and the layout of `STATUS` -/

/-- Settles O1: the reset values are constant vectors and zero flags. -/
theorem resetZeroesTheEngine : Obligations.ResetZeroesTheEngine := by
  refine ⟨fun k => ?_, by decide, rfl, rfl, rfl, rfl, fun b => ?_, fun i => ?_, rfl⟩ <;> simp [State.reset]

/-- Each bit of `STATUS` (R27). -/
theorem getLsbD_statusWord (s : State) (i : Nat) :
    (statusWord s).getLsbD i =
      if i = 0 then s.busy else if i = 1 then s.done else if i = 2 then s.keyValid else if i = 3 then false
      else s.err.getLsbD (i - 4) := by
  simp only [statusWord, BitVec.getLsbD_setWidth, BitVec.getLsbD_append]
  match i with
  | 0 | 1 | 2 | 3 => simp
  | n + 4 =>
    have hbeyond : s.err.getLsbD n = true → n + 4 < 32 := fun h => by
      have := BitVec.lt_of_getLsbD h
      omega
    simpa using hbeyond

theorem readReg_status (s : State) : readReg 0x04#7 s = statusWord s := rfl

/-- Settles O14, bit by bit. -/
theorem statusLayout : Obligations.StatusLayout := by
  refine ⟨fun s => ?_, by decide⟩
  simp only [readReg_status, getLsbD_statusWord]
  refine ⟨rfl, rfl, rfl, rfl, ?_, fun i hi => ?_, fun v => rfl⟩
  · apply BitVec.eq_of_getLsbD_eq
    intro i hi
    simp only [BitVec.getLsbD_extractLsb', getLsbD_statusWord, hi]
    simp [show 4 + i ≠ 0 ∧ 4 + i ≠ 1 ∧ 4 + i ≠ 2 ∧ 4 + i ≠ 3 by omega, hi]
  · simp [show i ≠ 0 ∧ i ≠ 1 ∧ i ≠ 2 ∧ i ≠ 3 by omega, BitVec.getLsbD_of_ge s.err (i - 4) (by omega)]
end Sys2Proof.Machine

/-! SUPPORT. Proofs of the statements about the register window (20_memory.md): where it lies, the byte order of a value,
what a read, a write and one access do, what a master's turn does. -/

namespace Sys2Proof.Machine

/-! ### Where the registers stand (R41) -/

@[simp] theorem regAt_key (k : Fin 4) : regAt (BitVec.ofNat 7 (0x10 + 4 * k.val)) = .key k := by
  revert k; decide

@[simp] theorem regAt_iv (k : Fin 4) : regAt (BitVec.ofNat 7 (0x20 + 4 * k.val)) = .iv k := by
  revert k; decide

@[simp] theorem regAt_din (k : Fin 4) : regAt (BitVec.ofNat 7 (0x30 + 4 * k.val)) = .din k := by
  revert k; decide

@[simp] theorem regAt_dout (k : Fin 4) : regAt (BitVec.ofNat 7 (0x40 + 4 * k.val)) = .dout k := by
  revert k; decide

theorem regAt_eq_status {off : Offset} (h : regAt off = .status) : off = 0x04#7 := by
  revert off; decide

theorem regAt_eq_dout {off : Offset} {k : Fin 4} (h : regAt off = .dout k) : off = BitVec.ofNat 7 (0x40 + 4 * k.val) := by
  revert off k; decide

/-! ### The window (R40) -/

theorem windowOffset_of_mem {base a : Nat} (h : base ≤ a ∧ a < base + 0x80) :
    windowOffset base a = some (BitVec.ofNat 7 (a - base)) := if_pos h

theorem windowOffset_of_not_mem {base a : Nat} (h : ¬(base ≤ a ∧ a < base + 0x80)) : windowOffset base a = none :=
  if_neg h

/-- Settles O10: `a - AES_BASE` is below 0x80, so seven bits hold it, and `AES_BASE` is a multiple of four. -/
theorem windowIsTheRangeFromBase : Obligations.WindowIsTheRangeFromBase := by
  intro a size kind
  refine ⟨fun h => ⟨BitVec.ofNat 7 (a - Config.aesBase), ?_, ?_⟩, fun h => ?_⟩
  · simp [accessAt, windowOffset_of_mem h]
  · have hoff : (BitVec.ofNat 7 (a - Config.aesBase)).toNat = a - Config.aesBase := by
      rw [BitVec.toNat_ofNat, Nat.mod_eq_of_lt (by omega)]
    have hbase : Config.aesBase = 0x80 * Config.aesBaseIndex := rfl
    exact ⟨hoff, by omega⟩
  · simp [accessAt, windowOffset_of_not_mem h]

/-! ### The byte order (R43) -/

/-- The bytes of a word made of four bytes are those bytes, the first one least significant. -/
theorem byteOfWord_wordOfBytes (b : Col) (j : Nat) (hj : j < 4) :
    (wordOfBytes b[0] b[1] b[2] b[3]).extractLsb' (8 * j) 8 = b[j] := by
  apply BitVec.eq_of_toNat_eq
  rw [toNat_byteOfWord, toNat_wordOfBytes]
  have h0 := b[0].isLt
  have h1 := b[1].isLt
  have h2 := b[2].isLt
  match j, hj with
  | 0, _ | 1, _ | 2, _ | 3, _ => omega

/-- A word is made of its four bytes. -/
theorem wordOfBytes_bytesOfWord (w : Word) :
    wordOfBytes (w.extractLsb' (8 * 0) 8) (w.extractLsb' (8 * 1) 8) (w.extractLsb' (8 * 2) 8) (w.extractLsb' (8 * 3) 8) =
      w := by
  apply BitVec.eq_of_toNat_eq
  have hw := w.isLt
  simp only [toNat_wordOfBytes, toNat_byteOfWord]
  omega

theorem byteOfWord_wordsOf (x : Block) (k j : Fin 4) :
    (wordsOf x)[k].extractLsb' (8 * j.val) 8 = x[4 * k.val + j.val] := by
  simpa using byteOfWord_wordOfBytes (column x k) j j.isLt

theorem byte_bytesOf (r : RegBank) (k j : Fin 4) :
    (bytesOf r)[4 * k.val + j.val] = r[k].extractLsb' (8 * j.val) 8 := by
  have hd : (4 * k.val + j.val) / 4 = k.val := by omega
  have hm : (4 * k.val + j.val) % 4 = j.val := by omega
  simp [hd, hm]

theorem bytesOf_wordsOf (x : Block) : bytesOf (wordsOf x) = x := by
  apply block_ext_columns
  intro k
  apply Vector.ext
  intro j hj
  rw [getElem_column, getElem_column, byte_bytesOf _ k ⟨j, hj⟩, byteOfWord_wordsOf x k ⟨j, hj⟩]

theorem wordsOf_bytesOf (r : RegBank) : wordsOf (bytesOf r) = r := by
  apply Vector.ext
  intro k hk
  have hbyte (j : Nat) (hj : j < 4) : (bytesOf r)[4 * k + j] = r[k].extractLsb' (8 * j) 8 :=
    byte_bytesOf r ⟨k, hk⟩ ⟨j, hj⟩
  have hbyte0 : (bytesOf r)[4 * k] = r[k].extractLsb' (8 * 0) 8 := hbyte 0 (by decide)
  rw [getElem_wordsOf, hbyte0, hbyte 1 (by decide), hbyte 2 (by decide), hbyte 3 (by decide), wordOfBytes_bytesOfWord]

/-- Settles O11. -/
theorem bytePackingIsLittleEndian : Obligations.BytePackingIsLittleEndian :=
  ⟨byteOfWord_wordsOf, byte_bytesOf, bytesOf_wordsOf, wordsOf_bytesOf⟩

/-! ### Reads (R44) -/

/-- A read, performed or answered with a bus error, leaves the state. -/
theorem access_read_state {a : Access} (s : State) (h : a.kind = .read) : (access a s).1 = s := by
  rcases access_cases a s with ⟨_, he⟩ | ⟨_, _, _, he⟩ | ⟨v, _, _, hk, _⟩
  · rw [he]
  · rw [he]
  · simp [h] at hk

/-- Settles O13: an offset outside the readable registers holds `CMD`, `KEY`, `IV` or nothing. -/
theorem readsFollowTheRegisterMap : Obligations.ReadsFollowTheRegisterMap := by
  intro s
  refine ⟨rfl, fun k => ?_, fun k => ?_, fun off hstatus hdata => ?_, fun a => access_read_state s⟩
  · rw [readReg, regAt_din, regValue]
  · rw [readReg, regAt_dout, regValue]
  · unfold readReg
    cases h : regAt off with
    | status => exact absurd (regAt_eq_status h) hstatus
    | din k => exact absurd (regAt_eq_din h) (hdata k).1
    | dout k => exact absurd (regAt_eq_dout h) (hdata k).2
    | cmd | key k | iv k | reserved => rfl

/-! ### Writes (R45) -/

theorem writeReg_cmd (v : Word) (s : State) : writeReg 0x00#7 v s = issueCommand v s := rfl

theorem writeReg_key (k : Fin 4) (v : Word) (s : State) :
    writeReg (BitVec.ofNat 7 (0x10 + 4 * k.val)) v s = { s with key := s.key.set k v } := by
  rw [writeReg, regAt_key, writeRegister, setWord]

theorem writeReg_iv (k : Fin 4) (v : Word) (s : State) :
    writeReg (BitVec.ofNat 7 (0x20 + 4 * k.val)) v s = { s with iv := s.iv.set k v } := by
  rw [writeReg, regAt_iv, writeRegister, setWord]

theorem writeReg_din (k : Fin 4) (v : Word) (s : State) :
    writeReg (BitVec.ofNat 7 (0x30 + 4 * k.val)) v s = { s with din := s.din.set k v } := by
  rw [writeReg, regAt_din, writeRegister, setWord]

/-- An offset where no writable register stands ignores a write. -/
theorem writeReg_of_not_writable {off : Offset} (v : Word) (s : State) (hcmd : off ≠ 0x00#7)
    (hbank : ∀ k : Fin 4, off ≠ BitVec.ofNat 7 (0x10 + 4 * k.val) ∧ off ≠ BitVec.ofNat 7 (0x20 + 4 * k.val) ∧
      off ≠ BitVec.ofNat 7 (0x30 + 4 * k.val)) :
    writeReg off v s = s := by
  rcases writeReg_cases off v s with ⟨h, _⟩ | ⟨k, h, _⟩ | ⟨k, h, _⟩ | ⟨k, h, _⟩ | he
  · exact absurd (regAt_eq_cmd h) hcmd
  · exact absurd (regAt_eq_key h) (hbank k).1
  · exact absurd (regAt_eq_iv h) (hbank k).2.1
  · exact absurd (regAt_eq_din h) (hbank k).2.2
  · exact he

/-- Settles O15. -/
theorem writesFollowTheRegisterMap : Obligations.WritesFollowTheRegisterMap := fun s v =>
  ⟨writeReg_cmd v s, fun k => writeReg_key k v s, fun k => writeReg_iv k v s, fun k => writeReg_din k v s,
    fun _ => writeReg_of_not_writable v s⟩

/-! ### Idempotency (R46) -/

theorem writeReg_idempotent {off : Offset} (v : Word) (s : State) (h : off ≠ 0x00#7) :
    writeReg off v (writeReg off v s) = writeReg off v s := by
  unfold writeReg
  cases hr : regAt off with
  | cmd => exact absurd (regAt_eq_cmd hr) h
  | key k | iv k | din k => simp [writeRegister, setWord]
  | status | dout k | reserved => rfl

theorem writeReg_cmd_of_accepts {v : Word} {i : Instr} {s : State} (hd : decode v = .ok i) (ha : s.accepts i) :
    writeReg 0x00#7 v s = accept i s :=
  issueCommand_of_accepts hd ha

/-- The second of two command writes is rejected when the first is accepted. -/
theorem writeReg_cmd_twice {v : Word} {i : Instr} {s : State} (hd : decode v = .ok i) (ha : s.accepts i) :
    writeReg 0x00#7 v (writeReg 0x00#7 v s) = reject .busy (accept i s) := by
  rw [writeReg_cmd_of_accepts hd ha, writeReg_cmd, issueCommand_of_busy v (accept_busy i s)]

/-- `KEYEXP` written twice from reset: the second write leaves `ERR` BUSY, the first alone NONE. -/
theorem writeReg_cmd_not_idempotent :
    writeReg 0x00#7 0x1#32 (writeReg 0x00#7 0x1#32 State.reset) ≠ writeReg 0x00#7 0x1#32 State.reset := by
  have hd : decode 0x1#32 = .ok .keyexp := rfl
  have ha : State.reset.accepts .keyexp := ⟨rfl, fun h => by cases h⟩
  rw [writeReg_cmd_twice hd ha, writeReg_cmd_of_accepts hd ha]
  intro h
  have herr := congrArg State.err h
  simp [ErrName.code] at herr

theorem writeReg_of_readOnly_or_reserved {off : Offset} (v : Word) (s : State)
    (h : off = 0x04#7 ∨ off = 0x08#7 ∨ off = 0x0C#7 ∨ 0x40 ≤ off.toNat) : writeReg off v s = s := by
  have hout : off ≠ 0x00#7 ∧ ∀ k : Fin 4, off ≠ BitVec.ofNat 7 (0x10 + 4 * k.val) ∧
      off ≠ BitVec.ofNat 7 (0x20 + 4 * k.val) ∧ off ≠ BitVec.ofNat 7 (0x30 + 4 * k.val) := by
    refine ⟨by bv_omega, fun k => ⟨?_, ?_, ?_⟩⟩ <;> bv_omega
  exact writeReg_of_not_writable v s hout.1 hout.2

/-- Settles O16. -/
theorem onlyCmdWritesAreNotIdempotent : Obligations.OnlyCmdWritesAreNotIdempotent := by
  refine ⟨fun a s => access_read_state s, fun off v s => writeReg_idempotent v s,
    ⟨_, _, writeReg_cmd_not_idempotent⟩, fun v i s hd ha => ?_, fun off v s => writeReg_of_readOnly_or_reserved v s⟩
  rw [writeReg_cmd_twice hd ha, writeReg_cmd_of_accepts hd ha]
  exact ⟨rfl, rfl, rfl⟩

/-! ### One access (R42) -/

theorem access_wf_iff (a : Access) : a.wf = true ↔ ¬(a.size ≠ 4 ∨ a.off.toNat % 4 ≠ 0) := by
  simp [Access.wf]

theorem access_of_not_wf {a : Access} (s : State) (h : a.wf = false) : access a s = (s, .busError a.off a.size) := by
  have hbad : a.size ≠ 4 ∨ a.off.toNat % 4 ≠ 0 := by
    by_contra hgood
    simp [(access_wf_iff a).mpr hgood] at h
  exact if_pos hbad

theorem access_of_read {a : Access} (s : State) (h : a.wf = true) (hk : a.kind = .read) :
    access a s = (s, .data (readReg a.off s)) := by
  simp only [access, if_neg ((access_wf_iff a).mp h), hk]

theorem access_of_write {a : Access} (s : State) (v : Word) (h : a.wf = true) (hk : a.kind = .write v) :
    access a s = (writeReg a.off v s, .done) := by
  simp only [access, if_neg ((access_wf_iff a).mp h), hk]

/-- Settles O12. -/
theorem onlyAlignedWordAccessesArePerformed : Obligations.OnlyAlignedWordAccessesArePerformed := fun _ s =>
  ⟨access_of_not_wf s, access_of_read s, access_of_write s⟩

/-! ### A master's turn (R48, R49) -/

/-- `t` has the host's side of `s`: the masters' programs, the turns and the answers. -/
structure State.SameHost (s t : State) : Prop where
  masters : t.masters = s.masters
  turns : t.turns = s.turns
  replies : t.replies = s.replies

theorem State.SameHost.refl (s : State) : s.SameHost s := ⟨rfl, rfl, rfl⟩

theorem sameHost_issueCommand (v : Word) (s : State) : s.SameHost (issueCommand v s) := by
  rcases issueCommand_rejects_or_accepts v s with ⟨e, h⟩ | ⟨i, _, _, h⟩ <;> rw [h] <;> exact ⟨rfl, rfl, rfl⟩

theorem sameHost_writeReg (off : Offset) (v : Word) (s : State) : s.SameHost (writeReg off v s) := by
  rcases writeReg_cases off v s with ⟨_, h⟩ | ⟨k, _, h⟩ | ⟨k, _, h⟩ | ⟨k, _, h⟩ | h <;> rw [h]
  · exact sameHost_issueCommand v s
  all_goals exact ⟨rfl, rfl, rfl⟩

theorem sameHost_access (a : Access) (s : State) : s.SameHost (access a s).1 := by
  rcases access_cases a s with ⟨_, h⟩ | ⟨_, _, _, h⟩ | ⟨v, _, _, _, h⟩ <;> rw [h]
  · exact .refl s
  · exact .refl s
  · exact sameHost_writeReg a.off v s

/-- What a command write does to the engine does not depend on the turns to come. -/
theorem issueCommand_takeTurn (v : Word) (s : State) : issueCommand v (takeTurn s) = takeTurn (issueCommand v s) := by
  rcases issueCommand_cases v s with ⟨hb, h⟩ | ⟨hb, ⟨e, hd⟩, h⟩ | ⟨i, hb, hd, hn, hk, h⟩ | ⟨i, hb, hd, hk, h⟩ <;> rw [h]
  · exact issueCommand_of_busy v (s := takeTurn s) hb
  · exact issueCommand_of_undecodable (s := takeTurn s) hb (by simp [hd])
  · exact issueCommand_of_noKey (s := takeTurn s) hb hd hn hk
  · exact issueCommand_of_accepts (s := takeTurn s) hd ⟨hb, hk⟩

theorem writeReg_takeTurn (off : Offset) (v : Word) (s : State) :
    writeReg off v (takeTurn s) = takeTurn (writeReg off v s) := by
  unfold writeReg
  cases regAt off with
  | cmd => exact issueCommand_takeTurn v s
  | _ => rfl

/-- An access does the same, and is answered alike, whoever moves afterwards. -/
theorem access_takeTurn (a : Access) (s : State) :
    access a (takeTurn s) = (takeTurn (access a s).1, (access a s).2) := by
  unfold access
  split
  · rfl
  · cases a.kind with
    | read => simp only [readReg_congr a.off (takeTurn_din s) (takeTurn_dout s) rfl]
    | write v => simp only [writeReg_takeTurn]

theorem step_of_access {s : State} {m : Nat} {a : Access} {rest : List BusOp} (ht : nextTurn s = .master m)
    (hl : s.masters.getD m [] = .access a :: rest) :
    step s = .next (recordReply m rest (access a s).2 (takeTurn (access a s).1)) := by
  simp only [step, ht, perform, masterTurn, takeTurn_masters, hl, access_takeTurn]

/-- Settles O19: the access leaves the host's side, so recording its answer is all that happens there. -/
theorem masterTurnPerformsOneAccess : Obligations.MasterTurnPerformsOneAccess := by
  intro s m a rest ht hl
  have hm : m < s.masters.length := by
    by_contra hge
    simp [List.getD_eq_getElem?_getD, List.getElem?_eq_none (not_lt.mp hge)] at hl
  obtain ⟨hmasters, hturns, hreplies⟩ := sameHost_access a s
  refine ⟨_, step_of_access ht hl, ?_, ?_, fun n hn => ?_⟩
  · simp only [recordReply, takeTurn, hmasters, hturns, hreplies]
  · simp [List.getD_eq_getElem?_getD, hmasters, hm]
  · simp [List.getD_eq_getElem?_getD, hmasters, List.getElem?_set_ne hn.symm]

end Sys2Proof.Machine

/-! SUPPORT. Proofs of the statements about the encoding (30_encoding.md): which words decode, bytes and table words,
the operand table of the commands, the `POLL` line. -/

namespace Sys2Proof.Machine

/-! ### The two fields of a word (R60) -/

theorem toNat_opField (v : Word) : (opField v).toNat = v.toNat % 16 := by
  simp [opField, BitVec.extractLsb'_toNat]

theorem toNat_rsvdField (v : Word) : (rsvdField v).toNat = v.toNat / 16 := by
  have hv := v.isLt
  rw [rsvdField, BitVec.extractLsb'_toNat, Nat.shiftRight_eq_div_pow, Nat.mod_eq_of_lt (by omega)]

/-- `RSVD` and `OP` are all of a word. -/
theorem word_ext_fields {v w : Word} (hrsvd : rsvdField v = rsvdField w) (hop : opField v = opField w) : v = w := by
  apply BitVec.eq_of_toNat_eq
  have hhigh := congrArg BitVec.toNat hrsvd
  have hlow := congrArg BitVec.toNat hop
  rw [toNat_rsvdField, toNat_rsvdField] at hhigh
  rw [toNat_opField, toNat_opField] at hlow
  omega

theorem commandWord : ∀ i : Instr, Laws.CommandWord.Statement i
  | .keyexp => Laws.CommandWord.keyexp
  | .ecbenc => Laws.CommandWord.ecbenc
  | .ecbdec => Laws.CommandWord.ecbdec
  | .ecbenck => Laws.CommandWord.ecbenck
  | .ecbdeck => Laws.CommandWord.ecbdeck
  | .cbcinit => Laws.CommandWord.cbcinit
  | .cbcdec => Laws.CommandWord.cbcdec
  | .clear => Laws.CommandWord.clear

theorem rsvdField_encode (i : Instr) : rsvdField (encode i) = 0#28 := by
  obtain ⟨_, hrsvd, _⟩ := commandWord i
  exact hrsvd

theorem opField_encode (i : Instr) : opField (encode i) = i.op := by
  obtain ⟨_, _, hop⟩ := commandWord i
  exact hop

/-! ### Decoding a word (R61, R62, R63) -/

theorem decode_of_reservedBits {v : Word} (h : rsvdField v ≠ 0#28) : decode v = .error .reservedBits := if_pos h

theorem decode_of_rsvdField_zero {v : Word} (h : rsvdField v = 0#28) : decode v = decodeOp (opField v) :=
  if_neg (not_not.mpr h)

/-- The opcode map is one to one. -/
theorem decodeOp_eq_ok_iff (op : BitVec 4) (i : Instr) : decodeOp op = .ok i ↔ op = i.op := by
  revert op
  cases i <;> decide

theorem decode_encode (i : Instr) : decode (encode i) = .ok i := by
  rw [decode_of_rsvdField_zero (rsvdField_encode i), decodeOp_eq_ok_iff, opField_encode]

/-- A word that decodes has zero in `RSVD` and the command's opcode in `OP`, which leaves one word. -/
theorem decode_eq_ok_iff (v : Word) (i : Instr) : decode v = .ok i ↔ v = encode i := by
  refine ⟨fun h => ?_, fun h => h ▸ decode_encode i⟩
  by_cases hr : rsvdField v = 0#28
  · rw [decode_of_rsvdField_zero hr, decodeOp_eq_ok_iff] at h
    exact word_ext_fields (hr.trans (rsvdField_encode i).symm) (h.trans (opField_encode i).symm)
  · rw [decode_of_reservedBits hr] at h
    cases h

theorem toNat_encode_range (i : Instr) : 1 ≤ (encode i).toNat ∧ (encode i).toNat ≤ 8 := by
  cases i <;> decide

/-- A word outside 1 to 8 is the word of no command. -/
theorem decode_error_of_out_of_range {v : Word} (h : v = 0x00000000#32 ∨ 9 ≤ v.toNat) :
    ∃ e, decode v = .error e := by
  cases hd : decode v with
  | error e => exact ⟨e, rfl⟩
  | ok i =>
    obtain ⟨hlo, hhi⟩ := toNat_encode_range i
    rw [← (decode_eq_ok_iff v i).mp hd] at hlo hhi
    rcases h with rfl | h
    · exact absurd hlo (by decide)
    · omega

/-- Settles O7: each word of the map is the encoding of its command. -/
theorem onlyTheEightWordsDecode : Obligations.OnlyTheEightWordsDecode := fun v =>
  ⟨decode_eq_ok_iff v .keyexp, decode_eq_ok_iff v .ecbenc, decode_eq_ok_iff v .ecbdec, decode_eq_ok_iff v .ecbenck,
    decode_eq_ok_iff v .ecbdeck, decode_eq_ok_iff v .cbcinit, decode_eq_ok_iff v .cbcdec, decode_eq_ok_iff v .clear,
    decode_error_of_out_of_range⟩

/-- Settles O9. -/
theorem sampleWordsDecode : Obligations.SampleWordsDecode :=
  ⟨decode_encode .keyexp, decode_encode .ecbdec, decode_encode .ecbenck, decode_encode .cbcdec, decode_encode .clear,
    decode_of_rsvdField_zero (by decide), decode_of_rsvdField_zero (by decide),
    decode_of_reservedBits (by decide), decode_of_reservedBits (by decide)⟩

/-! ### Decoding bytes and table words (R64) -/

theorem wordOfBytes_inj {b0 b1 b2 b3 c0 c1 c2 c3 : Byte} :
    wordOfBytes b0 b1 b2 b3 = wordOfBytes c0 c1 c2 c3 ↔ b0 = c0 ∧ b1 = c1 ∧ b2 = c2 ∧ b3 = c3 := by
  refine ⟨fun h => ?_, fun ⟨h0, h1, h2, h3⟩ => by rw [h0, h1, h2, h3]⟩
  have hn := congrArg BitVec.toNat h
  rw [toNat_wordOfBytes, toNat_wordOfBytes] at hn
  refine ⟨?_, ?_, ?_, ?_⟩ <;> bv_omega

/-- The encoding of a command, byte by byte. -/
theorem encode_eq_wordOfBytes (i : Instr) : encode i = wordOfBytes (i.op.setWidth 8) 0x00#8 0x00#8 0x00#8 := by
  cases i <;> decide

theorem decodeBytes_eq_ok_iff (bs : List Byte) (i : Instr) :
    decodeBytes bs = .ok i ↔ bs = [i.op.setWidth 8, 0x00#8, 0x00#8, 0x00#8] := by
  match bs with
  | [b0, b1, b2, b3] => simp [decodeBytes, decode_eq_ok_iff, encode_eq_wordOfBytes, wordOfBytes_inj]
  | [] | [_] | [_, _] | [_, _, _] | _ :: _ :: _ :: _ :: _ :: _ => simp [decodeBytes]

/-- The four bytes of a number below 2^32, least significant first, make the word of that number. -/
theorem wordOfBytes_ofNat {n : Nat} (h : n < 2 ^ 32) :
    wordOfBytes (BitVec.ofNat 8 n) (BitVec.ofNat 8 (n / 2 ^ 8)) (BitVec.ofNat 8 (n / 2 ^ 16))
      (BitVec.ofNat 8 (n / 2 ^ 24)) = BitVec.ofNat 32 n := by
  apply BitVec.eq_of_toNat_eq
  simp only [toNat_wordOfBytes, BitVec.toNat_ofNat]
  omega

theorem tableValue_lt {nbits : Nat} (h : nbits ≤ 32) (w : Nat) : w % 2 ^ nbits < 2 ^ 32 :=
  (Nat.mod_lt w (Nat.two_pow_pos nbits)).trans_le (Nat.pow_le_pow_right (by decide) h)

/-- A table word of at most 32 bits is read as the 32-bit word of its value. -/
theorem decodeTableWord_of_le {nbits : Nat} (h : nbits ≤ 32) (w : Nat) :
    decodeTableWord nbits w = (decode (BitVec.ofNat 32 (w % 2 ^ nbits))).toOption := by
  rw [decodeTableWord, tableBytes, if_pos h, ← wordOfBytes_ofNat (tableValue_lt h w)]
  rfl

theorem decodeTableWord_of_gt {nbits : Nat} (h : ¬nbits ≤ 32) (w : Nat) : decodeTableWord nbits w = none := by
  rw [decodeTableWord, tableBytes, if_neg h]
  rfl

theorem toOption_eq_some_iff {ε α : Type} (r : Except ε α) (a : α) : r.toOption = some a ↔ r = .ok a := by
  cases r <;> simp [Except.toOption]

theorem decodeTableWord_eq_some_iff (nbits w : Nat) (i : Instr) :
    decodeTableWord nbits w = some i ↔ nbits ≤ 32 ∧ w % 2 ^ nbits = (encode i).toNat := by
  by_cases h : nbits ≤ 32
  · rw [decodeTableWord_of_le h, toOption_eq_some_iff, decode_eq_ok_iff, ← BitVec.toNat_inj, BitVec.toNat_ofNat,
      Nat.mod_eq_of_lt (tableValue_lt h w)]
    exact (and_iff_right h).symm
  · simp [decodeTableWord_of_gt h, h]

/-- Settles O8. -/
theorem decodeAndEncodeAgree : Obligations.DecodeAndEncodeAgree := fun i _ =>
  ⟨fun v => decode_eq_ok_iff v i, fun bs => decodeBytes_eq_ok_iff bs i,
    fun nbits w => decodeTableWord_eq_some_iff nbits w i⟩

/-! ### A `POLL` line (R66) -/

/-- Putting back the element that stands at an index changes nothing. -/
theorem set_getD_self {α : Type} (l : List α) (m : Nat) (d : α) : l.set m (l.getD m d) = l := by
  by_cases h : m < l.length
  · rw [List.getD_eq_getElem l d h, List.set_getElem_self]
  · rw [List.set_eq_of_length_le (not_lt.mp h)]

/-- A `POLL` at an aligned offset is one read, and its line goes when the read satisfies it. -/
theorem step_of_poll {s : State} {m : Nat} {off : Offset} {mask val : Word} {rest : List BusOp}
    (ht : nextTurn s = .master m) (hl : s.masters.getD m [] = .poll off mask val :: rest) (ha : off.toNat % 4 = 0) :
    step s = .next (recordReply m (if readReg off s &&& mask = val then rest else .poll off mask val :: rest)
      (.data (readReg off s)) (takeTurn s)) := by
  have hwf : Access.wf ⟨off, 4, .read⟩ = true := by simp [Access.wf, ha]
  simp only [step, ht, perform, masterTurn, takeTurn_masters, hl, access_takeTurn, access_of_read s hwf rfl, pollEnds,
    beq_iff_eq]

/-- Settles O20: an unfinished line is put back where it stood. -/
theorem pollRepeatsItsRead : Obligations.PollRepeatsItsRead := by
  intro s m off mask val rest ht hl ha
  refine ⟨fun h => ?_, fun h => ?_⟩ <;> rw [step_of_poll ht hl ha]
  · rw [if_pos h]
    rfl
  · rw [if_neg h, ← hl]
    simp only [recordReply, takeTurn, set_getD_self]

/-! ### The operand table: what a completion leaves (R65) -/

theorem needsKey_of_not_expandsKey {i : Instr} (hcl : i ≠ .clear) (h : expandsKey i = false) : needsKey i = true := by
  rcases expandsKey_or_needsKey_or_clear i with he | hn | hc
  · simp [h] at he
  · exact hn
  · exact absurd hc hcl

theorem bodyOf_of_not_producesBlock {i : Instr} (hcl : i ≠ .clear) (h : producesBlock i = false) (p : Pending)
    (s : State) : (bodyOf i p s).st = s.st ∧ (bodyOf i p s).dout = s.dout := by
  cases i with
  | keyexp | cbcinit => exact ⟨rfl, rfl⟩
  | clear => exact absurd rfl hcl
  | ecbenc | ecbdec | ecbenck | ecbdeck | cbcdec => cases h

theorem bodyOf_cv_of_not_chaining {i : Instr} (hcl : i ≠ .clear) (hinit : i ≠ .cbcinit) (hdec : i ≠ .cbcdec)
    (p : Pending) (s : State) : (bodyOf i p s).cv = s.cv := by
  cases i with
  | keyexp | ecbenc | ecbdec | ecbenck | ecbdeck => rfl
  | clear => exact absurd rfl hcl
  | cbcinit => exact absurd rfl hinit
  | cbcdec => exact absurd rfl hdec

theorem sameHost_bodyOf (i : Instr) (p : Pending) (s : State) : s.SameHost (bodyOf i p s) := by
  cases i <;> exact ⟨rfl, rfl, rfl⟩

/-- Settles O32: `finish` writes the flags and `PEND`, and the body its row of the table. -/
theorem completionWritesOnlyItsRow : Obligations.CompletionWritesOnlyItsRow := by
  intro s t p hc h
  obtain rfl := eq_of_completes hc h
  obtain ⟨hmasters, hturns, hreplies⟩ := sameHost_bodyOf p.op p (takeTurn s)
  exact ⟨rfl, rfl, rfl, bodyOf_err p.op p (takeTurn s),
    fun hcl => bodyOf_operands hcl p (takeTurn s),
    fun hcl he => (bodyOf_of_needsKey (needsKey_of_not_expandsKey hcl he) p (takeTurn s)).symm,
    fun hcl hb => bodyOf_of_not_producesBlock hcl hb p (takeTurn s),
    fun hcl hinit hdec => bodyOf_cv_of_not_chaining hcl hinit hdec p (takeTurn s),
    hmasters, hreplies, hturns⟩

/-! ### The operand table: what a completion reads (R65, R104, R143) -/

/-- The block a command leaves in `ST` is made of its record and the schedule it runs under. -/
theorem bodyOf_st_congr {i : Instr} {s s' : State} (hb : producesBlock i = true)
    (hrk : expandsKey i = false → s'.rk = s.rk) (p : Pending) : (bodyOf i p s').st = (bodyOf i p s).st := by
  cases i with
  | ecbenc => exact congrArg (cipher p.blk) (hrk rfl)
  | ecbdec | cbcdec => exact congrArg (invCipher p.blk) (hrk rfl)
  | ecbenck | ecbdeck => rfl
  | keyexp | cbcinit | clear => cases hb

/-- `DOUT` takes the words of the block in `ST`, for `CBCDEC` after the XOR with the old `CV`. -/
theorem bodyOf_dout {i : Instr} (hb : producesBlock i = true) (p : Pending) (s : State) :
    (bodyOf i p s).dout =
      wordsOf (if i = .cbcdec then xorBlock (bodyOf i p s).st s.cv else (bodyOf i p s).st) := by
  cases i with
  | ecbenc | ecbdec | ecbenck | ecbdeck | cbcdec => rfl
  | keyexp | cbcinit | clear => cases hb

theorem bodyOf_dout_congr {i : Instr} {s s' : State} (hb : producesBlock i = true)
    (hrk : expandsKey i = false → s'.rk = s.rk) (hcv : i = .cbcdec → s'.cv = s.cv) (p : Pending) :
    (bodyOf i p s').dout = (bodyOf i p s).dout := by
  rw [bodyOf_dout hb, bodyOf_dout hb, bodyOf_st_congr hb hrk]
  split
  next hdec => rw [hcv hdec]
  next => rfl

/-- Settles O39: two states with one record run the same body on it. -/
theorem resultsDependOnlyOnTheOperands : Obligations.ResultsDependOnlyOnTheOperands := by
  intro i s s' t t' hpend h h'
  obtain ⟨p, hp, rfl⟩ := exec_next_cases h
  obtain ⟨p', hp', rfl⟩ := exec_next_cases h'
  obtain rfl : p = p' := Option.some.inj (hp.symm.trans (hpend.symm.trans hp'))
  refine ⟨fun he => ?_, fun hb hrk => bodyOf_st_congr hb hrk p, fun hb hrk hcv => bodyOf_dout_congr hb hrk hcv p,
    fun hcv => ?_⟩
  · obtain ⟨hkv, hrk⟩ := bodyOf_of_expandsKey he p s
    obtain ⟨hkv', hrk'⟩ := bodyOf_of_expandsKey he p s'
    exact ⟨hrk'.trans hrk.symm, hkv'.trans hkv.symm⟩
  · rcases hcv with rfl | rfl <;> rfl

end Sys2Proof.Machine

/-! SUPPORT. Proofs of the statements about the Galois-field unit and the constant tables (40_galois_and_sbox.md): the
field product as gated doublings, the two substitution tables, the round constants. -/

namespace Sys2Proof.Machine

/-! ### A gated byte (R82) -/

@[simp] theorem gated_true (t : Byte) : gated true t = t := rfl

@[simp] theorem gated_false (t : Byte) : gated false t = 0x00#8 := rfl

@[simp] theorem gated_zero (c : Bool) : gated c 0x00#8 = 0x00#8 := ite_self _

theorem gated_bne (c d : Bool) (t : Byte) : gated (c ^^ d) t = gated c t ^^^ gated d t := by
  cases c <;> cases d <;> simp

/-! ### Doubling (R81) -/

theorem xtime_eq (b : Byte) : xtime b = (b <<< 1) ^^^ gated (b.getLsbD 7) 0x1B#8 :=
  congrArg (· ^^^ gated (b.getLsbD 7) 0x1B#8) BitVec.and_allOnes

theorem xtime_of_bit7_false {b : Byte} (h : b.getLsbD 7 = false) : xtime b = b <<< 1 := by
  rw [xtime_eq, h, gated_false, BitVec.xor_zero]

theorem xtime_of_bit7_true {b : Byte} (h : b.getLsbD 7 = true) : xtime b = (b <<< 1) ^^^ 0x1B#8 := by
  rw [xtime_eq, h, gated_true]

@[simp] theorem xtime_zero : xtime 0x00#8 = 0x00#8 := rfl

theorem xtime_xor (a b : Byte) : xtime (a ^^^ b) = xtime a ^^^ xtime b := by
  simp only [xtime_eq, BitVec.shiftLeft_xor_distrib, BitVec.getLsbD_xor, gated_bne]
  ac_rfl

/-! ### Reduction modulo `m(x)` (R80) -/

/-- One step of the reduction: a set bit `k` is cancelled by `m(x)` moved up to it. -/
def reduceBit (q : BitVec 16) (k : Nat) : BitVec 16 := if q.getLsbD k then q ^^^ (0x11B#16 <<< (k - 8)) else q

theorem polyReduce_eq (p : BitVec 16) : polyReduce p = ([14, 13, 12, 11, 10, 9, 8].foldl reduceBit p).setWidth 8 := rfl

theorem reduceBit_of_false {q : BitVec 16} {k : Nat} (h : q.getLsbD k = false) : reduceBit q k = q := by
  simp [reduceBit, h]

theorem reduceBit_of_true {q : BitVec 16} {k : Nat} (h : q.getLsbD k = true) :
    reduceBit q k = q ^^^ (0x11B#16 <<< (k - 8)) := by
  simp [reduceBit, h]

theorem reduceBit_xor (p q : BitVec 16) (k : Nat) : reduceBit (p ^^^ q) k = reduceBit p k ^^^ reduceBit q k := by
  cases hp : p.getLsbD k <;> cases hq : q.getLsbD k <;> grind [reduceBit]

theorem foldl_reduceBit_xor (l : List Nat) (p q : BitVec 16) :
    l.foldl reduceBit (p ^^^ q) = l.foldl reduceBit p ^^^ l.foldl reduceBit q := by
  induction l generalizing p q with
  | nil => rfl
  | cons k l ih => simp only [List.foldl_cons, reduceBit_xor, ih]

theorem polyReduce_xor (p q : BitVec 16) : polyReduce (p ^^^ q) = polyReduce p ^^^ polyReduce q := by
  simp only [polyReduce_eq, foldl_reduceBit_xor, BitVec.setWidth_xor]

/-- A step one bit higher on the polynomial times `x`. -/
theorem reduceBit_shiftLeft (q : BitVec 16) {k : Nat} (hk : 8 ≤ k) (hk' : k < 15) :
    reduceBit (q <<< 1) (k + 1) = reduceBit q k <<< 1 := by
  have hb : (q <<< 1).getLsbD (k + 1) = q.getLsbD k := by
    simp [show k + 1 < 16 by omega, BitVec.getLsbD_eq_getElem (show k < 16 by omega)]
  have hm : 0x11B#16 <<< (k + 1 - 8) = (0x11B#16 <<< (k - 8)) <<< 1 := by
    rw [← BitVec.shiftLeft_add, Nat.sub_add_comm hk]
  rw [reduceBit, reduceBit, hb, hm]
  split
  · exact (BitVec.shiftLeft_xor_distrib ..).symm
  · rfl

/-- The last step, at bit 8, on the polynomial times `x` is a doubling of its low byte. -/
theorem setWidth_reduceBit_shiftLeft (q : BitVec 16) :
    (reduceBit (q <<< 1) 8).setWidth 8 = xtime (q.setWidth 8) := by
  have hb : (q <<< 1).getLsbD 8 = (q.setWidth 8).getLsbD 7 := by simp
  cases h : (q.setWidth 8).getLsbD 7 with
  | false => rw [reduceBit_of_false (hb.trans h), xtime_of_bit7_false h]; simp
  | true => rw [reduceBit_of_true (hb.trans h), xtime_of_bit7_true h]; simp

/-- Multiplying by `x` before the reduction is doubling after it. -/
theorem polyReduce_shiftLeft {p : BitVec 16} (h : p.getLsbD 14 = false) :
    polyReduce (p <<< 1) = xtime (polyReduce p) := by
  simp only [polyReduce_eq, List.foldl_cons, List.foldl_nil, reduceBit_of_false h, ← setWidth_reduceBit_shiftLeft]
  simp [← reduceBit_shiftLeft]

theorem foldl_reduceBit_setWidth (a : Byte) {l : List Nat} (h : ∀ k ∈ l, 8 ≤ k) :
    l.foldl reduceBit (a.setWidth 16) = a.setWidth 16 := by
  induction l with
  | nil => rfl
  | cons k l ih =>
    have hb : (a.setWidth 16).getLsbD k = false := by
      simp [BitVec.getLsbD_of_ge a k (h k List.mem_cons_self)]
    rw [List.foldl_cons, reduceBit_of_false hb, ih fun j hj => h j (List.mem_cons_of_mem k hj)]

/-- A byte is reduced as it is. -/
theorem polyReduce_setWidth (a : Byte) : polyReduce (a.setWidth 16) = a := by
  rw [polyReduce_eq, foldl_reduceBit_setWidth a (by decide)]
  simp

theorem polyReduce_setWidth_shiftLeft (a : Byte) {k : Nat} (hk : k ≤ 7) :
    polyReduce (a.setWidth 16 <<< k) = xtime^[k] a := by
  induction k with
  | zero => simp [polyReduce_setWidth]
  | succ k ih =>
    have hb : (a.setWidth 16 <<< k).getLsbD 14 = false := by
      simp [BitVec.getLsbD_of_ge a (14 - k) (by omega)]
    rw [Function.iterate_succ_apply', ← ih (by omega), ← polyReduce_shiftLeft hb, BitVec.shiftLeft_add]

/-! ### The field product as gated doublings (R80, R82) -/

/-- Term `k` of the product `a • y`: `a` doubled `k` times, gated by bit `k` of `y`. -/
def doublingTerm (a y : Byte) (k : Nat) : Byte := gated (y.getLsbD k) (xtime^[k] a)

theorem polyReduce_product (a y : Byte) {l : List Nat} (h : ∀ k ∈ l, k ≤ 7) (p : BitVec 16) :
    polyReduce (l.foldl (fun p k => if y.getLsbD k then p ^^^ (a.setWidth 16 <<< k) else p) p) =
      l.foldl (fun q k => q ^^^ doublingTerm a y k) (polyReduce p) := by
  induction l generalizing p with
  | nil => rfl
  | cons k l ih =>
    rw [List.foldl_cons, List.foldl_cons, ih fun j hj => h j (List.mem_cons_of_mem k hj)]
    congr 1
    cases hy : y.getLsbD k with
    | false => simp [doublingTerm, hy]
    | true => simp [doublingTerm, hy, polyReduce_xor, polyReduce_setWidth_shiftLeft a (h k List.mem_cons_self)]

/-- The field product is the sum of the eight terms. -/
theorem fieldMul_eq (a y : Byte) :
    fieldMul a y = [0, 1, 2, 3, 4, 5, 6, 7].foldl (fun q k => q ^^^ doublingTerm a y k) 0x00#8 :=
  polyReduce_product a y (by decide) 0#16

/-- The multiply unit gives the sum of the low five terms. -/
theorem gfMul_eq (a y : Byte) : gfMul a y = [0, 1, 2, 3, 4].foldl (fun q k => q ^^^ doublingTerm a y k) 0x00#8 := by
  simp only [List.foldl_cons, List.foldl_nil, BitVec.zero_xor]
  rfl

theorem fieldMul_two (b : Byte) : fieldMul b 0x02#8 = xtime b := by
  simp [fieldMul_eq, doublingTerm]

/-- Masking the multiplier to five bits leaves the low five terms and makes the others zero. -/
theorem gfMul_eq_fieldMul_and (a y : Byte) : gfMul a y = fieldMul a (y &&& 0x1F#8) := by
  simp [gfMul_eq, fieldMul_eq, doublingTerm]

/-- Below 0x20 no bit of the multiplier is dropped. -/
theorem gfMul_eq_fieldMul {y : Byte} (a : Byte) (h : y &&& 0x1F#8 = y) : gfMul a y = fieldMul a y := by
  rw [gfMul_eq_fieldMul_and, h]

theorem gfMul_zero_left (y : Byte) : gfMul 0x00#8 y = 0x00#8 := by
  simp [gfMul]

/-- Settles O41. -/
theorem xtimeDoublesInTheField : Obligations.XtimeDoublesInTheField :=
  ⟨fun _ => xtime_of_bit7_false, fun _ => xtime_of_bit7_true, fun b => (fieldMul_two b).symm, xtime_xor,
    rfl, rfl, rfl, rfl, rfl, rfl⟩

/-- Settles O42. -/
theorem gfMulIsTheFieldProduct : Obligations.GfMulIsTheFieldProduct := by
  refine ⟨gfMul_eq_fieldMul_and, fun a y h => gfMul_eq_fieldMul a ?_, fun a => ⟨?_, ?_⟩, gfMul_zero_left⟩
  · rcases h with rfl | rfl | rfl | rfl | rfl | rfl | rfl <;> rfl
  · simp [gfMul]
  · simp [gfMul]

/-! ### The substitution tables (R84, R86) -/

/-- The inverse of the affine map of R84. -/
def sboxAffineInv (c : Byte) : Byte := rotl8 c 1 ^^^ rotl8 c 3 ^^^ rotl8 c 6 ^^^ 0x05#8

theorem sboxAffine_sboxAffineInv : ∀ c : Byte, sboxAffine (sboxAffineInv c) = c := by
  decide +kernel

/-- Undoing the affine map on the entry of a byte gives its field inverse: the table read through, entry by entry. -/
theorem fieldMul_sboxAffineInv_sbox : ∀ x : Byte, x ≠ 0x00#8 → fieldMul x (sboxAffineInv (sbox x)) = 0x01#8 := by
  decide +kernel

theorem sbox_ne_self_and_ne_complement : ∀ x : Byte, sbox x ≠ x ∧ sbox x ≠ x ^^^ 0xFF#8 := by
  decide +kernel

/-- Settles O43. -/
theorem sboxIsTheAlgebraicOne : Obligations.SboxIsTheAlgebraicOne :=
  ⟨fun x hx => ⟨sboxAffineInv (sbox x), fieldMul_sboxAffineInv_sbox x hx, (sboxAffine_sboxAffineInv (sbox x)).symm⟩,
    rfl, sbox_ne_self_and_ne_complement, rfl, rfl, rfl⟩

@[simp] theorem invSbox_sbox : ∀ x : Byte, invSbox (sbox x) = x := by
  decide +kernel

theorem sbox_injective : Function.Injective sbox := Function.LeftInverse.injective invSbox_sbox

/-- `sbox` is one to one, so on the finite set of bytes it is onto and its left inverse a right one. -/
@[simp] theorem sbox_invSbox (x : Byte) : sbox (invSbox x) = x :=
  Function.LeftInverse.rightInverse_of_surjective invSbox_sbox (Finite.surjective_of_injective sbox_injective) x

/-- Settles O44. -/
theorem sboxTablesAreInverse : Obligations.SboxTablesAreInverse :=
  ⟨invSbox_sbox, sbox_invSbox, rfl, rfl, rfl, rfl⟩

/-! ### The round constants (R87) -/

theorem rcon_one : rcon 1 = 0x01#8 := rfl

/-- From index 1 on each round constant is the double of the one before. -/
theorem rcon_succ {n : Nat} (h : 1 ≤ n) (h' : n < 10) : rcon (n + 1) = xtime (rcon n) := by
  interval_cases n <;> rfl

theorem rcon_eq_iterate {n : Nat} (h : n < 10) : rcon (n + 1) = xtime^[n] 0x01#8 := by
  induction n with
  | zero => exact rcon_one
  | succ n ih => rw [rcon_succ n.succ_pos h, ih (by omega), Function.iterate_succ_apply']

/-- Settles O45. -/
theorem roundConstantsAreDoublings : Obligations.RoundConstantsAreDoublings :=
  ⟨fun i => rcon_eq_iterate i.isLt, rcon_one, rfl, rfl⟩

end Sys2Proof.Machine

/-! SUPPORT. Proofs of the statements about the key expansion (41_key_expansion.md): the word operations, the recurrence
of the schedule, the round keys. -/

namespace Sys2Proof.Machine

/-! ### The word operations (R100, R101) -/

@[simp] theorem getElem_rotWord (t : Col) (j : Nat) (h : j < 4) : (rotWord t)[j] = t[(j + 1) % 4] := by
  match j, h with
  | 0, _ | 1, _ | 2, _ | 3, _ => rfl

@[simp] theorem getElem_subWord (t : Col) (j : Nat) (h : j < 4) : (subWord t)[j] = sbox t[j] := by
  match j, h with
  | 0, _ | 1, _ | 2, _ | 3, _ => rfl

/-- Four rotations by one byte move each byte by four places, that is by none. -/
theorem rotWord_four_times (t : Col) : rotWord (rotWord (rotWord (rotWord t))) = t := by
  apply Vector.ext
  intro j hj
  have hmod : ((((j + 1) % 4 + 1) % 4 + 1) % 4 + 1) % 4 = j := by omega
  simp only [getElem_rotWord, hmod]

/-- Settles O46. -/
theorem rotWordAndSubWord : Obligations.RotWordAndSubWord :=
  ⟨fun _ => ⟨rfl, rfl, rfl, rfl⟩, fun _ => rfl, rotWord_four_times, fun t j => getElem_subWord t j.val j.isLt, rfl⟩

/-! ### The recurrence of the schedule (R102) -/

/-- Where four divides `i`, `temp` is the rotated and substituted word with the round constant in byte 0. -/
theorem getElem_keyTemp_of_dvd {i : Nat} (hi : i % 4 = 0) (prev : Col) (j : Nat) (h : j < 4) :
    (keyTemp i prev)[j] = (subWord (rotWord prev))[j] ^^^ (if j = 0 then rcon (i / 4) else 0x00#8) := by
  match j, h with
  | 0, _ | 1, _ | 2, _ | 3, _ => simp [keyTemp, hi]

theorem keyTemp_of_not_dvd {i : Nat} (hi : i % 4 ≠ 0) (prev : Col) : keyTemp i prev = prev := by
  simp [keyTemp, hi]

/-- The first four words are the columns of the key. -/
theorem getElem_keyWords_zero (key : Block) (i : Nat) (h : i < 4) : (keyWords key 0)[i] = column key ⟨i, h⟩ := by
  match i, h with
  | 0, _ | 1, _ | 2, _ | 3, _ => rfl

/-- A word once made stays as it is to the end of the expansion. -/
theorem getElem_keyWords_of_le (key : Block) {n m : Nat} (hnm : n ≤ m) (i : Nat) (h : i < n + 4) :
    (keyWords key m)[i] = (keyWords key n)[i] := by
  induction m, hnm using Nat.le_induction with
  | base => rfl
  | succ m hnm ih => rw [getElem_keyWords_succ key m i (by omega), ih]

/-- The recurrence holds among the words of the whole expansion. -/
theorem getElem_keyWords_add_four (key : Block) {n m : Nat} (hn : n < m) :
    (keyWords key m)[n + 4] = xorCol (keyWords key m)[n] (keyTemp (n + 4) (keyWords key m)[n + 3]) := by
  rw [getElem_keyWords_of_le key hn (n + 4) (by omega), getElem_keyWords_new,
    getElem_keyWords_of_le key hn.le n (by omega), getElem_keyWords_of_le key hn.le (n + 3) (by omega)]

/-- Byte `4i + j` of the schedule is byte `j` of word `i`. -/
theorem getElem_keyExpansion_word (key : Block) (i j : Nat) (hi : i < 44) (hj : j < 4) :
    (keyExpansion key)[4 * i + j] = (keyWords key 40)[i][j] := by
  have hd : (4 * i + j) / 4 = i := by omega
  have hm : (4 * i + j) % 4 = j := by omega
  simp only [getElem_keyExpansion, hd, hm]

theorem scheduleWord_keyExpansion (key : Block) (i : Fin 44) :
    scheduleWord (keyExpansion key) i = (keyWords key 40)[i.val] := by
  apply Vector.ext
  intro j hj
  rw [getElem_scheduleWord, getElem_keyExpansion_word key i j i.isLt hj]

/-- The schedule starts with the key. -/
theorem getElem_keyExpansion_of_lt (key : Block) (b : Nat) (h : b < 16) : (keyExpansion key)[b] = key[b] := by
  rw [getElem_keyExpansion, getElem_keyWords_of_le key (Nat.zero_le 40) (b / 4) (by omega),
    getElem_keyWords_zero key (b / 4) (by omega), getElem_column]
  simp only [Nat.div_add_mod]

/-- Settles O47: byte `j` of the recurrence on words, in the two cases of `temp`. -/
theorem keyExpansionSatisfiesTheRecurrence : Obligations.KeyExpansionSatisfiesTheRecurrence := by
  refine fun key => ⟨fun j => getElem_keyExpansion_of_lt key j j.isLt, fun n j => ?_⟩
  rw [getElem_keyExpansion_word key (n + 4) j (by omega) j.isLt, getElem_keyWords_add_four key n.isLt, getElem_xorCol,
    getElem_keyExpansion_word key n j (by omega) j.isLt, getElem_keyExpansion_word key (n + 3) j (by omega) j.isLt,
    scheduleWord_keyExpansion]
  congr 1
  split
  case isTrue hn =>
    rw [getElem_keyTemp_of_dvd (by omega)]
    simp only [Fin.ext_iff, Fin.val_zero, Fin.getElem_fin]
  case isFalse hn => rw [keyTemp_of_not_dvd (by omega)]

/-! ### The round keys (R103) -/

theorem column_roundKey (rk : Schedule) (r : Fin 11) (c : Fin 4) :
    column (roundKey rk r) c = scheduleWord rk ⟨4 * r.val + c.val, by omega⟩ := by
  apply Vector.ext
  intro j hj
  have hb : 16 * r.val + (4 * c.val + j) = 4 * (4 * r.val + c.val) + j := by omega
  simp only [getElem_column, getElem_roundKey, getElem_scheduleWord, hb]

theorem roundKey_keyExpansion_zero (key : Block) : roundKey (keyExpansion key) 0 = key := by
  apply Vector.ext
  intro i hi
  simp [getElem_keyExpansion_of_lt key i hi]

theorem addRoundKey_eq_xorBlock (rk : Schedule) (r : Fin 11) (s : Block) :
    addRoundKey rk r s = xorBlock s (roundKey rk r) := by
  apply Vector.ext
  intro i hi
  simp only [getElem_addRoundKey, getElem_xorBlock, getElem_roundKey]

/-- Settles O48. -/
theorem roundKeysAreSlicesOfTheSchedule : Obligations.RoundKeysAreSlicesOfTheSchedule :=
  ⟨fun rk r i => getElem_roundKey rk r i i.isLt, column_roundKey, roundKey_keyExpansion_zero, addRoundKey_eq_xorBlock⟩

end Sys2Proof.Machine

/-! SUPPORT. Proofs of the statements about the forward pipeline (42_forward_cipher.md): the four steps, the rounds. -/

namespace Sys2Proof.Machine

/-! ### SubBytes (R110, R120) -/

@[simp] theorem invSubBytes_subBytes (s : Block) : invSubBytes (subBytes s) = s := by
  apply Vector.ext
  intro i hi
  rw [getElem_invSubBytes, getElem_subBytes, invSbox_sbox]

@[simp] theorem subBytes_invSubBytes (s : Block) : subBytes (invSubBytes s) = s := by
  apply Vector.ext
  intro i hi
  rw [getElem_subBytes, getElem_invSubBytes, sbox_invSbox]

theorem subBytes_zeroBlock : subBytes zeroBlock = Vector.replicate 16 0x63#8 := by
  apply Vector.ext
  intro i hi
  rw [getElem_subBytes, Vector.getElem_replicate, Vector.getElem_replicate]
  rfl

/-- Settles O49: byte by byte the two steps are the two tables, which invert each other. -/
theorem subBytesStepsAreInverse : Obligations.SubBytesStepsAreInverse :=
  ⟨fun s i => ⟨getElem_subBytes s i i.isLt, getElem_invSubBytes s i i.isLt⟩,
    fun s => ⟨invSubBytes_subBytes s, subBytes_invSubBytes s⟩,
    subBytes_zeroBlock, by rw [← subBytes_zeroBlock, invSubBytes_subBytes]⟩

/-! ### ShiftRows (R111) -/

/-- Two blocks with equal cells are equal (R35). -/
theorem block_ext_cells {a b : Block} (h : ∀ r c : Fin 4, a[r.val + 4 * c.val] = b[r.val + 4 * c.val]) : a = b := by
  apply Vector.ext
  intro i hi
  simpa only [Nat.mod_add_div] using h ⟨i % 4, by omega⟩ ⟨i / 4, by omega⟩

/-- Cell `(r, c)` of the shifted state is cell `(r, c + r)`, the column taken modulo 4. -/
theorem shiftRows_cell (s : Block) (r c : Fin 4) :
    (shiftRows s)[r.val + 4 * c.val] = s[r.val + 4 * (c + r).val] := by
  have hr : (r.val + 4 * c.val) % 4 = r.val := by omega
  have hc : (r.val + 4 * c.val) / 4 = c.val := by omega
  simp only [getElem_shiftRows, hr, hc, Fin.val_add]

/-- The normative byte-index form of the rule, entry by entry. -/
theorem shiftRows_eq_permutation (s : Block) :
    shiftRows s = #v[s[0], s[5], s[10], s[15], s[4], s[9], s[14], s[3], s[8], s[13], s[2], s[7], s[12], s[1], s[6],
      s[11]] := by
  apply Vector.ext
  intro i hi
  rw [getElem_shiftRows]
  interval_cases i <;> rfl

theorem shiftRows_of_constant_rows {s : Block} (h : ∀ r c : Fin 4, s[r.val + 4 * c.val] = s[r.val]) :
    shiftRows s = s :=
  block_ext_cells fun r c => by rw [shiftRows_cell, h, h]

/-- Four shifts move row `r` by `4r` positions, that is by none. -/
theorem shiftRows_four_times (s : Block) : shiftRows (shiftRows (shiftRows (shiftRows s))) = s := by
  refine block_ext_cells fun r c => ?_
  have hcol : c + r + r + r + r = c := by omega
  simp only [shiftRows_cell, hcol]

/-- Settles O50. -/
theorem shiftRowsRotatesLeft : Obligations.ShiftRowsRotatesLeft := fun s =>
  ⟨shiftRows_cell s, shiftRows_eq_permutation s, shiftRows_of_constant_rows, shiftRows_four_times s⟩

/-! ### MixColumns (R112) -/

theorem fieldMul_three (b : Byte) : fieldMul b 0x03#8 = b ^^^ xtime b := by
  simp [fieldMul_eq, doublingTerm]

/-- One byte of the doubling form is one row of the matrix, as `xtime` is linear and `{03}` is `{02} + {01}`. -/
theorem doubling_eq_matrix_row (a b c d : Byte) :
    a ^^^ (a ^^^ b ^^^ c ^^^ d) ^^^ xtime (a ^^^ b) = fieldMul a 0x02#8 ^^^ fieldMul b 0x03#8 ^^^ c ^^^ d := by
  calc a ^^^ (a ^^^ b ^^^ c ^^^ d) ^^^ xtime (a ^^^ b)
      = (a ^^^ a) ^^^ (xtime a ^^^ (b ^^^ xtime b) ^^^ c ^^^ d) := by rw [xtime_xor]; ac_rfl
    _ = fieldMul a 0x02#8 ^^^ fieldMul b 0x03#8 ^^^ c ^^^ d := by
      rw [BitVec.xor_self, BitVec.zero_xor, fieldMul_two, fieldMul_three]

/-- Byte `j` of the doubling form, the same expression in each of the four rows. -/
theorem getElem_mixColumn (a : Col) (j : Nat) (h : j < 4) :
    (mixColumn a)[j] = a[j] ^^^ (a[0] ^^^ a[1] ^^^ a[2] ^^^ a[3]) ^^^ xtime (a[j] ^^^ a[(j + 1) % 4]) := by
  match j, h with
  | 0, _ | 1, _ | 2, _ | 3, _ => rfl

/-- The matrix is circulant: row `j` is the coefficients {02, 03, 01, 01} from byte `j` on. -/
theorem getElem_mixColumn_circulant (a : Col) (j : Nat) (h : j < 4) :
    (mixColumn a)[j] =
      fieldMul a[j] 0x02#8 ^^^ fieldMul a[(j + 1) % 4] 0x03#8 ^^^ a[(j + 2) % 4] ^^^ a[(j + 3) % 4] := by
  have hsum : a[0] ^^^ a[1] ^^^ a[2] ^^^ a[3] = a[j] ^^^ a[(j + 1) % 4] ^^^ a[(j + 2) % 4] ^^^ a[(j + 3) % 4] := by
    match j, h with
    | 0, _ => rfl
    | 1, _ | 2, _ | 3, _ => simp only [Nat.reduceAdd, Nat.reduceMod]; ac_rfl
  rw [getElem_mixColumn, hsum, doubling_eq_matrix_row]

theorem mixColumn_eq_matrix (a : Col) :
    mixColumn a =
      #v[fieldMul a[0] 0x02#8 ^^^ fieldMul a[1] 0x03#8 ^^^ a[2] ^^^ a[3],
         a[0] ^^^ fieldMul a[1] 0x02#8 ^^^ fieldMul a[2] 0x03#8 ^^^ a[3],
         a[0] ^^^ a[1] ^^^ fieldMul a[2] 0x02#8 ^^^ fieldMul a[3] 0x03#8,
         fieldMul a[0] 0x03#8 ^^^ a[1] ^^^ a[2] ^^^ fieldMul a[3] 0x02#8] := by
  apply Vector.ext
  intro j hj
  rw [getElem_mixColumn_circulant]
  match j, hj with
  | 0, _ => rfl
  | 1, _ | 2, _ | 3, _ =>
    simp only [Nat.reduceAdd, Nat.reduceMod, Vector.getElem_mk, List.getElem_toArray, List.getElem_cons_succ,
      List.getElem_cons_zero]
    ac_rfl

/-- In a column of equal bytes the column's sum and the doubled difference both vanish. -/
theorem mixColumn_equal_bytes (b : Byte) : mixColumn #v[b, b, b, b] = #v[b, b, b, b] := by
  simp [mixColumn]

theorem mixColumn_xorCol (a b : Col) : mixColumn (xorCol a b) = xorCol (mixColumn a) (mixColumn b) := by
  apply Vector.ext
  intro j hj
  simp only [getElem_mixColumn, getElem_xorCol, xtime_xor]
  ac_rfl

theorem column_xorBlock (a b : Block) (c : Fin 4) : column (xorBlock a b) c = xorCol (column a c) (column b c) := by
  apply Vector.ext
  intro j hj
  simp only [getElem_column, getElem_xorBlock, getElem_xorCol]

theorem column_mixColumns (s : Block) (c : Fin 4) : column (mixColumns s) c = mixColumn (column s c) :=
  column_mapColumns mixColumn s c

theorem mixColumns_xorBlock (a b : Block) : mixColumns (xorBlock a b) = xorBlock (mixColumns a) (mixColumns b) :=
  block_ext_columns fun c => by simp only [column_mixColumns, column_xorBlock, mixColumn_xorCol]

/-- Settles O52: the doubling form is the matrix row by row, and each column is mixed alone. -/
theorem mixColumnsIsTheCirculantMatrix : Obligations.MixColumnsIsTheCirculantMatrix :=
  ⟨fun s c => (column_mixColumns s c).trans (mixColumn_eq_matrix (column s c)), mixColumn_equal_bytes, rfl, rfl,
    mixColumns_xorBlock⟩

/-! ### AddRoundKey (R113) -/

@[simp] theorem addRoundKey_addRoundKey (rk : Schedule) (r : Fin 11) (s : Block) :
    addRoundKey rk r (addRoundKey rk r s) = s := by
  apply Vector.ext
  intro i hi
  rw [getElem_addRoundKey, getElem_addRoundKey, BitVec.xor_assoc, BitVec.xor_self, BitVec.xor_zero]

theorem addRoundKey_zeroSchedule (r : Fin 11) (s : Block) : addRoundKey zeroSchedule r s = s := by
  apply Vector.ext
  intro i hi
  rw [getElem_addRoundKey, Vector.getElem_replicate, BitVec.xor_zero]

/-- Settles O54. -/
theorem addRoundKeyIsItsOwnInverse : Obligations.AddRoundKeyIsItsOwnInverse :=
  ⟨fun rk r s i => getElem_addRoundKey rk r s i i.isLt, addRoundKey_addRoundKey, addRoundKey_zeroSchedule⟩

/-! ### The rounds of the cipher (R114) -/

/-- The state after round `n` of the cipher: every round from 1 on substitutes, shifts, mixes and adds its round key,
but round 10 does not mix. -/
def forwardState (blk : Block) (rk : Schedule) : Nat → Block
  | 0 => addRoundKey rk 0 blk
  | n + 1 =>
    let shifted := shiftRows (subBytes (forwardState blk rk n))
    addRoundKey rk (Fin.ofNat 11 (n + 1)) (if n + 1 = 10 then shifted else mixColumns shifted)

/-- Rounds 1 to 9 are the model's round function. -/
theorem forwardState_eq_forwardRound (blk : Block) (rk : Schedule) {r : Fin 11} (h1 : 1 ≤ r.val) (h9 : r.val ≤ 9) :
    forwardState blk rk r = forwardRound rk (forwardState blk rk (r - 1).val) r := by
  obtain ⟨_ | n, hr⟩ := r
  case zero => exact absurd h1 (Nat.not_succ_le_zero 0)
  case succ =>
    have hpred : (⟨n + 1, hr⟩ - 1 : Fin 11).val = n := by
      rw [Fin.val_sub_one_of_ne_zero (by simp [Fin.ext_iff])]; rfl
    have hround : Fin.ofNat 11 (n + 1) = ⟨n + 1, hr⟩ := Fin.ext (Nat.mod_eq_of_lt hr)
    have hmix : n + 1 ≠ 10 := by have : n + 1 ≤ 9 := h9; omega
    rw [hpred, forwardState, if_neg hmix, hround, forwardRound]

theorem forwardState_ten (blk : Block) (rk : Schedule) :
    forwardState blk rk 10 = addRoundKey rk 10 (shiftRows (subBytes (forwardState blk rk 9))) := rfl

/-- The nine rounds of the cipher's fold lead to state 9. -/
theorem foldl_forwardRound_eq_forwardState (blk : Block) (rk : Schedule) :
    [1, 2, 3, 4, 5, 6, 7, 8, 9].foldl (forwardRound rk) (addRoundKey rk 0 blk) = forwardState blk rk 9 := rfl

theorem cipher_eq_forwardState (blk : Block) (rk : Schedule) : cipher blk rk = forwardState blk rk 10 := by
  rw [forwardState_ten, ← foldl_forwardRound_eq_forwardState, cipher]

/-- Settles O55: the states are `forwardState`. -/
theorem cipherIsElevenRounds : Obligations.CipherIsElevenRounds := fun blk rk =>
  ⟨fun r => forwardState blk rk r, rfl, fun _ => forwardState_eq_forwardRound blk rk, forwardState_ten blk rk,
    cipher_eq_forwardState blk rk⟩

end Sys2Proof.Machine

/-! SUPPORT. Proofs of the statements about the inverse pipeline (43_inverse_cipher.md): the inverse steps, the rounds,
and that each pipeline undoes the other. -/

namespace Sys2Proof.Machine

/-! ### InvShiftRows (R121) -/

/-- Cell `(r, c)` of the state shifted back is cell `(r, c - r)`, the column taken modulo 4. -/
theorem invShiftRows_cell (s : Block) (r c : Fin 4) :
    (invShiftRows s)[r.val + 4 * c.val] = s[r.val + 4 * (c - r).val] := by
  have hr : (r.val + 4 * c.val) % 4 = r.val := by omega
  have hc : (r.val + 4 * c.val) / 4 = c.val := by omega
  have hcol : (c - r).val = (c.val + 4 - r.val) % 4 := by omega
  simp only [getElem_invShiftRows, hr, hc, hcol]

theorem invShiftRows_eq_permutation (s : Block) :
    invShiftRows s = #v[s[0], s[13], s[10], s[7], s[4], s[1], s[14], s[11], s[8], s[5], s[2], s[15], s[12], s[9], s[6],
      s[3]] := by
  apply Vector.ext
  intro i hi
  rw [getElem_invShiftRows]
  interval_cases i <;> rfl

@[simp] theorem invShiftRows_shiftRows (s : Block) : invShiftRows (shiftRows s) = s :=
  block_ext_cells fun r c => by simp only [invShiftRows_cell, shiftRows_cell, sub_add_cancel]

@[simp] theorem shiftRows_invShiftRows (s : Block) : shiftRows (invShiftRows s) = s :=
  block_ext_cells fun r c => by simp only [shiftRows_cell, invShiftRows_cell, add_sub_cancel_right]

/-- Shifting left leaves a state of constant rows as it is, so shifting back does too. -/
theorem invShiftRows_of_constant_rows {s : Block} (h : ∀ r c : Fin 4, s[r.val + 4 * c.val] = s[r.val]) :
    invShiftRows s = s := by
  rw [← congrArg invShiftRows (shiftRows_of_constant_rows h), invShiftRows_shiftRows]

/-- Settles O51. -/
theorem invShiftRowsRotatesRight : Obligations.InvShiftRowsRotatesRight := fun s =>
  ⟨invShiftRows_cell s, invShiftRows_eq_permutation s, invShiftRows_of_constant_rows, invShiftRows_shiftRows s,
    shiftRows_invShiftRows s⟩

/-! ### InvMixColumns (R122) -/

theorem invMixColumn_eq_matrix (a : Col) :
    invMixColumn a =
      #v[fieldMul a[0] 0x0E#8 ^^^ fieldMul a[1] 0x0B#8 ^^^ fieldMul a[2] 0x0D#8 ^^^ fieldMul a[3] 0x09#8,
         fieldMul a[0] 0x09#8 ^^^ fieldMul a[1] 0x0E#8 ^^^ fieldMul a[2] 0x0B#8 ^^^ fieldMul a[3] 0x0D#8,
         fieldMul a[0] 0x0D#8 ^^^ fieldMul a[1] 0x09#8 ^^^ fieldMul a[2] 0x0E#8 ^^^ fieldMul a[3] 0x0B#8,
         fieldMul a[0] 0x0B#8 ^^^ fieldMul a[1] 0x0D#8 ^^^ fieldMul a[2] 0x09#8 ^^^ fieldMul a[3] 0x0E#8] := by
  have h9 (b : Byte) : gfMul b 0x09 = fieldMul b 0x09#8 := gfMul_eq_fieldMul b rfl
  have hB (b : Byte) : gfMul b 0x0B = fieldMul b 0x0B#8 := gfMul_eq_fieldMul b rfl
  have hD (b : Byte) : gfMul b 0x0D = fieldMul b 0x0D#8 := gfMul_eq_fieldMul b rfl
  have hE (b : Byte) : gfMul b 0x0E = fieldMul b 0x0E#8 := gfMul_eq_fieldMul b rfl
  simp only [invMixColumn, h9, hB, hD, hE]

theorem fieldMul_nine (b : Byte) : fieldMul b 0x09#8 = b ^^^ xtime (xtime (xtime b)) := by
  simp [fieldMul_eq, doublingTerm]

theorem fieldMul_eleven (b : Byte) : fieldMul b 0x0B#8 = b ^^^ xtime b ^^^ xtime (xtime (xtime b)) := by
  simp [fieldMul_eq, doublingTerm]

theorem fieldMul_thirteen (b : Byte) : fieldMul b 0x0D#8 = b ^^^ xtime (xtime b) ^^^ xtime (xtime (xtime b)) := by
  simp [fieldMul_eq, doublingTerm]

theorem fieldMul_fourteen (b : Byte) :
    fieldMul b 0x0E#8 = xtime b ^^^ xtime (xtime b) ^^^ xtime (xtime (xtime b)) := by
  simp [fieldMul_eq, doublingTerm]

/-- A row of the matrix {02, 03, 01, 01} times four bytes, the first of them the row's own, in the doubling form. -/
def mixRow (a b c d : Byte) : Byte := b ^^^ c ^^^ d ^^^ xtime (a ^^^ b)

/-- A row of the matrix {0E, 0B, 0D, 09} times four bytes, the first of them the row's own. -/
def invMixRow (a b c d : Byte) : Byte :=
  fieldMul a 0x0E#8 ^^^ fieldMul b 0x0B#8 ^^^ fieldMul c 0x0D#8 ^^^ fieldMul d 0x09#8

theorem getElem_mixColumn_eq_mixRow (a : Col) (j : Fin 4) :
    (mixColumn a)[j] = mixRow a[j] a[j + 1] a[j + 2] a[j + 3] := by
  have hrow : (mixColumn a)[j] =
      fieldMul a[j] 0x02#8 ^^^ fieldMul a[j + 1] 0x03#8 ^^^ a[j + 2] ^^^ a[j + 3] :=
    getElem_mixColumn_circulant a j j.isLt
  rw [hrow, fieldMul_two, fieldMul_three, mixRow, xtime_xor]
  ac_rfl

theorem getElem_invMixColumn_eq_invMixRow (a : Col) (j : Fin 4) :
    (invMixColumn a)[j] = invMixRow a[j] a[j + 1] a[j + 2] a[j + 3] := by
  rw [invMixColumn_eq_matrix]
  match j with
  | 0 => rfl
  | 1 | 2 | 3 =>
    simp only [invMixRow, Fin.isValue, Fin.getElem_fin, Fin.coe_ofNat_eq_mod, Fin.reduceAdd, Nat.reduceMod,
      Vector.getElem_mk, List.getElem_toArray, List.getElem_cons_succ, List.getElem_cons_zero]
    ac_rfl

/-- With commutativity and associativity this sorts a sum of bytes, so that equal terms meet and cancel. -/
theorem byte_xor_left_comm (a b c : Byte) : a ^^^ (b ^^^ c) = b ^^^ (a ^^^ c) := by ac_rfl

theorem mixRow_xor_mixRow (a b c d : Byte) :
    mixRow a b c d ^^^ mixRow b c d a = a ^^^ b ^^^ xtime (a ^^^ c) := by
  simp only [mixRow, xtime_xor, BitVec.xor_assoc, BitVec.xor_comm, byte_xor_left_comm, xor_cancel_left]

theorem mixRow_xor_mixRow_xor_mixRow (a b c d : Byte) :
    mixRow b c d a ^^^ mixRow c d a b ^^^ mixRow d a b c = a ^^^ xtime (a ^^^ b) := by
  simp only [mixRow, xtime_xor, BitVec.xor_assoc, BitVec.xor_comm, byte_xor_left_comm, xor_cancel_left,
    BitVec.xor_self, BitVec.zero_xor]

/-- The matrix {02, 03, 01, 01} squared is {05, 00, 04, 00}. -/
theorem mixRow_mixRow (a b c d : Byte) :
    mixRow (mixRow a b c d) (mixRow b c d a) (mixRow c d a b) (mixRow d a b c) =
      a ^^^ xtime (xtime (a ^^^ c)) := by
  rw [mixRow, mixRow_xor_mixRow_xor_mixRow, mixRow_xor_mixRow, xtime_xor (a ^^^ b), ← BitVec.xor_assoc,
    xor_cancel_right]

theorem getElem_mixColumn_mixColumn (a : Col) (j : Fin 4) :
    (mixColumn (mixColumn a))[j] = a[j] ^^^ xtime (xtime (a[j] ^^^ a[j + 2])) := by
  simp only [getElem_mixColumn_eq_mixRow, add_assoc, Fin.reduceAdd, add_zero, mixRow_mixRow]

theorem col_ext {a b : Col} (h : ∀ j : Fin 4, a[j] = b[j]) : a = b :=
  Vector.ext fun j hj => h ⟨j, hj⟩

/-- Mixing four times is the identity: {05, 00, 04, 00} squared is {01, 00, 00, 00}. -/
theorem mixColumn_four_times (a : Col) : mixColumn (mixColumn (mixColumn (mixColumn a))) = a := by
  refine col_ext fun j => ?_
  have hdiff (x y t : Byte) : x ^^^ t ^^^ (y ^^^ t) = x ^^^ y := by
    rw [BitVec.xor_comm y, ← BitVec.xor_assoc, xor_cancel_right]
  simp only [getElem_mixColumn_mixColumn, add_assoc, Fin.reduceAdd, add_zero]
  rw [BitVec.xor_comm a[j + 2] a[j], hdiff, xor_cancel_right]

/-- The matrix {02, 03, 01, 01} times its square is {0E, 0B, 0D, 09}. -/
theorem mixRow_eq_invMixRow (a b c d : Byte) :
    mixRow (a ^^^ xtime (xtime (a ^^^ c))) (b ^^^ xtime (xtime (b ^^^ d))) (c ^^^ xtime (xtime (c ^^^ a)))
      (d ^^^ xtime (xtime (d ^^^ b))) = invMixRow a b c d := by
  simp only [mixRow, invMixRow, fieldMul_nine, fieldMul_eleven, fieldMul_thirteen, fieldMul_fourteen, xtime_xor,
    BitVec.xor_assoc, BitVec.xor_comm, byte_xor_left_comm, xor_cancel_left]

theorem invMixColumn_eq_mixColumn_three_times (a : Col) : invMixColumn a = mixColumn (mixColumn (mixColumn a)) := by
  refine col_ext fun j => ?_
  rw [getElem_invMixColumn_eq_invMixRow, ← mixRow_eq_invMixRow, getElem_mixColumn_eq_mixRow]
  simp only [getElem_mixColumn_mixColumn, add_assoc, Fin.reduceAdd, add_zero]

theorem invMixColumn_mixColumn (a : Col) : invMixColumn (mixColumn a) = a := by
  rw [invMixColumn_eq_mixColumn_three_times, mixColumn_four_times]

theorem mixColumn_invMixColumn (a : Col) : mixColumn (invMixColumn a) = a := by
  rw [invMixColumn_eq_mixColumn_three_times, mixColumn_four_times]

theorem column_invMixColumns (s : Block) (c : Fin 4) : column (invMixColumns s) c = invMixColumn (column s c) :=
  column_mapColumns invMixColumn s c

@[simp] theorem invMixColumns_mixColumns (s : Block) : invMixColumns (mixColumns s) = s :=
  block_ext_columns fun c => by rw [column_invMixColumns, column_mixColumns, invMixColumn_mixColumn]

@[simp] theorem mixColumns_invMixColumns (s : Block) : mixColumns (invMixColumns s) = s :=
  block_ext_columns fun c => by rw [column_mixColumns, column_invMixColumns, mixColumn_invMixColumn]

/-- Mixing leaves a column of equal bytes as it is, so the inverse does too. -/
theorem invMixColumn_equal_bytes (b : Byte) : invMixColumn #v[b, b, b, b] = #v[b, b, b, b] := by
  rw [← congrArg invMixColumn (mixColumn_equal_bytes b), invMixColumn_mixColumn]

/-- Settles O53. -/
theorem invMixColumnsInvertsMixColumns : Obligations.InvMixColumnsInvertsMixColumns :=
  ⟨fun s c => (column_invMixColumns s c).trans (invMixColumn_eq_matrix (column s c)),
    fun s => ⟨invMixColumns_mixColumns s, mixColumns_invMixColumns s⟩, invMixColumn_equal_bytes, rfl, rfl⟩

/-! ### The rounds of the inverse cipher (R123) -/

/-- The state of the inverse cipher when `n` rounds are done after round 10: every round shifts back, substitutes back,
adds its round key and mixes back, but round 0, the tenth, does not mix. -/
def inverseState (blk : Block) (rk : Schedule) : Nat → Block
  | 0 => addRoundKey rk 10 blk
  | n + 1 =>
    let added := addRoundKey rk (Fin.ofNat 11 (9 - n)) (invSubBytes (invShiftRows (inverseState blk rk n)))
    if n = 9 then added else invMixColumns added

/-- Rounds 9 to 1 are the model's round function. -/
theorem inverseState_succ (blk : Block) (rk : Schedule) {n : Nat} (h : n < 9) :
    inverseState blk rk (n + 1) = inverseRound rk (inverseState blk rk n) (Fin.ofNat 11 (9 - n)) := by
  rw [inverseState, if_neg h.ne, inverseRound]

theorem inverseState_eq_inverseRound (blk : Block) (rk : Schedule) {r : Fin 11} (h1 : 1 ≤ r.val) (h9 : r.val ≤ 9) :
    inverseState blk rk (10 - r.val) = inverseRound rk (inverseState blk rk (10 - (r + 1).val)) r := by
  have hdone : 10 - r.val = 9 - r.val + 1 := by omega
  have hprev : 10 - (r + 1).val = 9 - r.val := by omega
  have hround : Fin.ofNat 11 (9 - (9 - r.val)) = r := Fin.ext (show (9 - (9 - r.val)) % 11 = r.val by omega)
  rw [hdone, hprev, inverseState_succ blk rk (by omega), hround]

theorem inverseState_ten (blk : Block) (rk : Schedule) :
    inverseState blk rk 10 = addRoundKey rk 0 (invSubBytes (invShiftRows (inverseState blk rk 9))) := rfl

/-- The nine rounds of the inverse cipher's fold lead to round 1's state. -/
theorem foldl_inverseRound_eq_inverseState (blk : Block) (rk : Schedule) :
    [9, 8, 7, 6, 5, 4, 3, 2, 1].foldl (inverseRound rk) (addRoundKey rk 10 blk) = inverseState blk rk 9 := rfl

theorem invCipher_eq_inverseState (blk : Block) (rk : Schedule) : invCipher blk rk = inverseState blk rk 10 := by
  rw [inverseState_ten, ← foldl_inverseRound_eq_inverseState, invCipher]

/-- Settles O56: state `r` is `inverseState` with `10 - r` rounds done. -/
theorem invCipherIsElevenRounds : Obligations.InvCipherIsElevenRounds := fun blk rk =>
  ⟨fun r => inverseState blk rk (10 - r.val), by rfl, fun _ => inverseState_eq_inverseRound blk rk,
    inverseState_ten blk rk, invCipher_eq_inverseState blk rk⟩

/-! ### The pipelines invert each other (R124) -/

/-- If behind `e` a step of `g` undoes the step of `f` with the same parameter, folding `g` over the reversed list
undoes folding `f` over the list. -/
theorem foldl_reverse_undoes_foldl {α β : Type} {f g : β → α → β} {e : β → β} (h : ∀ s x, g (e (f s x)) x = e s)
    (l : List α) (s : β) : l.reverse.foldl g (e (l.foldl f s)) = e s := by
  induction l generalizing s with
  | nil => rfl
  | cons x l ih => rw [List.foldl_cons, List.reverse_cons, List.foldl_append, ih, List.foldl_cons, List.foldl_nil, h]

/-- Round `r` of the inverse cipher undoes round `r` of the cipher; each starts where the other one's next round has
substituted and shifted. -/
theorem inverseRound_forwardRound (rk : Schedule) (s : Block) (r : Fin 11) :
    inverseRound rk (shiftRows (subBytes (forwardRound rk s r))) r = shiftRows (subBytes s) := by
  rw [inverseRound, invShiftRows_shiftRows, invSubBytes_subBytes, forwardRound, addRoundKey_addRoundKey,
    invMixColumns_mixColumns]

theorem forwardRound_inverseRound (rk : Schedule) (s : Block) (r : Fin 11) :
    forwardRound rk (invSubBytes (invShiftRows (inverseRound rk s r))) r = invSubBytes (invShiftRows s) := by
  rw [forwardRound, subBytes_invSubBytes, shiftRows_invShiftRows, inverseRound, mixColumns_invMixColumns,
    addRoundKey_addRoundKey]

theorem invCipher_cipher (blk : Block) (rk : Schedule) : invCipher (cipher blk rk) rk = blk := by
  have hrounds : [9, 8, 7, 6, 5, 4, 3, 2, 1].foldl (inverseRound rk) (shiftRows (subBytes
      ([1, 2, 3, 4, 5, 6, 7, 8, 9].foldl (forwardRound rk) (addRoundKey rk 0 blk)))) =
        shiftRows (subBytes (addRoundKey rk 0 blk)) :=
    foldl_reverse_undoes_foldl (e := fun s => shiftRows (subBytes s)) (inverseRound_forwardRound rk)
      [1, 2, 3, 4, 5, 6, 7, 8, 9] _
  simp only [invCipher, cipher, addRoundKey_addRoundKey, hrounds, invShiftRows_shiftRows, invSubBytes_subBytes]

theorem cipher_invCipher (blk : Block) (rk : Schedule) : cipher (invCipher blk rk) rk = blk := by
  have hrounds : [1, 2, 3, 4, 5, 6, 7, 8, 9].foldl (forwardRound rk) (invSubBytes (invShiftRows
      ([9, 8, 7, 6, 5, 4, 3, 2, 1].foldl (inverseRound rk) (addRoundKey rk 10 blk)))) =
        invSubBytes (invShiftRows (addRoundKey rk 10 blk)) :=
    foldl_reverse_undoes_foldl (e := fun s => invSubBytes (invShiftRows s)) (forwardRound_inverseRound rk)
      [9, 8, 7, 6, 5, 4, 3, 2, 1] _
  simp only [cipher, invCipher, addRoundKey_addRoundKey, hrounds, subBytes_invSubBytes, shiftRows_invShiftRows]

/-- Settles O57: the inverse pipeline undoes the forward one under every schedule, so under an expanded key too. -/
theorem inverseCipherInvertsCipher : Obligations.InverseCipherInvertsCipher :=
  ⟨fun key blk => invCipher_cipher blk (keyExpansion key), cipher_invCipher⟩

end Sys2Proof.Machine

/-! SUPPORT. Proofs of the statements about the commands (44_commands.md): how a command word is answered, what each
completion leaves, that a pending command completes, and what sequences of commands compute. -/

namespace Sys2Proof.Machine

/-! ### The answer to a command word (R130) -/

theorem needsKey_iff (i : Instr) : needsKey i = true ↔ i = .ecbenc ∨ i = .ecbdec ∨ i = .cbcdec := by
  cases i <;> decide

theorem op_of_decode {v : Word} {i : Instr} (h : decode v = .ok i) : i.op = v.extractLsb' 0 4 := by
  rw [(decode_eq_ok_iff v i).mp h]
  exact (opField_encode i).symm

/-- Settles O21: each case of R130 is answered by its own rule. -/
theorem issueAcceptsOrRejects : Obligations.IssueAcceptsOrRejects := by
  intro v s
  refine ⟨issueCommand_of_busy v, issueCommand_of_undecodable, fun i hb hd => ⟨fun ⟨hi, hk⟩ => ?_, fun hna => ?_⟩⟩
  · exact issueCommand_of_noKey hb hd ((needsKey_iff i).mpr hi) hk
  · have ha : s.accepts i :=
      ⟨hb, fun hn => Bool.eq_true_of_not_eq_false fun hk => hna ⟨(needsKey_iff i).mp hn, hk⟩⟩
    exact ⟨op_of_decode hd, issueCommand_of_accepts hd ha⟩

/-- The word of a command can be rejected with `NO_KEY` exactly when the command uses the prepared key. A word with a
reserved bit set is no command, whatever its `OP`. -/
theorem answeredAtIssue_encode (i : Instr) : AnsweredAtIssue i (encode i) (needsKey i) := by
  intro s
  refine ⟨issueCommand_of_busy _, fun hb hn hk => issueCommand_of_noKey hb (decode_encode i) hn hk,
    fun hb hk => issueCommand_of_accepts (decode_encode i) ⟨hb, hk⟩,
    fun v _ hrsvd => ⟨issueCommand_of_busy v, fun hb => issueCommand_of_undecodable hb fun j hj => ?_⟩⟩
  rw [decode_of_reservedBits hrsvd] at hj
  cases hj

/-! ### The completion of each command (R131 to R140) -/

theorem exec_of_pending (i : Instr) {s : State} {p : Pending} (h : s.pend = some p) :
    exec i s = .next (finish (bodyOf i p s)) := by
  rw [exec_eq_completeWith, completeWith_of_pending _ h]

/-- A command completed right after its acceptance runs on the operands as they stood. -/
theorem exec_accept (i : Instr) (s : State) :
    exec i (accept i s) = .next (finish (bodyOf i (latch i s) (accept i s))) :=
  exec_of_pending i (accept_pend i s)

/-- Settles O31. -/
theorem completionNeedsAPendingCommand : Obligations.CompletionNeedsAPendingCommand := fun i s h =>
  (exec_eq_completeWith i s).trans (completeWith_of_none _ h)

/-- Settles O23. -/
theorem keyexpExpandsTheLatchedKey : Obligations.KeyexpExpandsTheLatchedKey :=
  ⟨answeredAtIssue_encode .keyexp, fun _ _ h => exec_of_pending .keyexp h⟩

/-- Settles O24. -/
theorem ecbencEncryptsWithThePreparedKey : Obligations.EcbencEncryptsWithThePreparedKey :=
  ⟨answeredAtIssue_encode .ecbenc, fun _ _ h => exec_of_pending .ecbenc h⟩

/-- Settles O25. -/
theorem ecbdecDecryptsWithThePreparedKey : Obligations.EcbdecDecryptsWithThePreparedKey :=
  ⟨answeredAtIssue_encode .ecbdec, fun _ _ h => exec_of_pending .ecbdec h⟩

/-- Settles O26. -/
theorem ecbenckExpandsThenEncrypts : Obligations.EcbenckExpandsThenEncrypts :=
  ⟨answeredAtIssue_encode .ecbenck, fun _ _ h => exec_of_pending .ecbenck h⟩

/-- Settles O27. -/
theorem ecbdeckExpandsThenDecrypts : Obligations.EcbdeckExpandsThenDecrypts :=
  ⟨answeredAtIssue_encode .ecbdeck, fun _ _ h => exec_of_pending .ecbdeck h⟩

/-- Settles O28. -/
theorem cbcinitExpandsAndLoadsTheIv : Obligations.CbcinitExpandsAndLoadsTheIv :=
  ⟨answeredAtIssue_encode .cbcinit, fun _ _ h => exec_of_pending .cbcinit h⟩

/-- Settles O29: `DOUT` holds the XOR of the block in `ST` with the old chaining value. -/
theorem cbcdecDecryptsAndAdvancesTheChain : Obligations.CbcdecDecryptsAndAdvancesTheChain :=
  ⟨answeredAtIssue_encode .cbcdec, fun s p h =>
    ⟨xorBlock (invCipher p.blk s.rk) s.cv, fun i => getElem_xorBlock _ _ i.val i.isLt, exec_of_pending .cbcdec h⟩⟩

/-- Settles O30: acceptance leaves `ERR` zero, which is the reset value `CLEAR` would not restore itself. -/
theorem clearZeroisesEverything : Obligations.ClearZeroisesEverything :=
  ⟨answeredAtIssue_encode .clear, fun _ _ h => exec_of_pending .clear h, exec_accept .clear⟩

/-! ### A step runs the pending command (R131) -/

theorem step_eq_exec {s : State} {p : Pending} (h : s.completes p) : step s = exec p.op (takeTurn s) := by
  rw [step_of_completes h]
  obtain ⟨_, _, hp⟩ := h
  exact (exec_of_pending (s := takeTurn s) p.op hp).symm

/-- The word of a command, placed, is held as accepted with the engine to move. -/
theorem withFetchWord_encode (s : State) (i : Instr) :
    s.withFetchWord 32 (encode i).toNat = { accept i s with turns := .engine :: s.turns } := by
  have hd : decodeTableWord 32 (encode i).toNat = some i :=
    (decodeTableWord_eq_some_iff 32 _ i).mpr ⟨le_rfl, Nat.mod_eq_of_lt (encode i).isLt⟩
  simp only [State.withFetchWord, placeCommand, hd]

/-- A master's accepted `CMD` write accepts the command and records that the write is done. -/
theorem step_of_accepted_write {s : State} {m : Nat} {v : Word} {rest : List BusOp} {i : Instr}
    (ht : nextTurn s = .master m) (hl : s.masters.getD m [] = .wr 0x00#7 v :: rest) (hd : decode v = .ok i)
    (ha : s.accepts i) : step s = .next (recordReply m rest .done (takeTurn (accept i s))) := by
  rw [step_of_access ht hl, access_of_write s v rfl rfl, writeReg_cmd, issueCommand_of_accepts hd ha]

/-- Settles O18: both ways the engine's turn finds the command pending. -/
theorem stepRunsTheDecodedCommand : Obligations.StepRunsTheDecodedCommand := by
  refine ⟨fun s i _ => ?_, fun s m v rest ts i hturns hl hd ha => ?_⟩
  · rw [withFetchWord_encode]
    exact step_eq_exec (p := latch i s) ⟨rfl, rfl, rfl⟩
  · have ht : nextTurn s = .master m := by simp only [nextTurn, hturns]
    refine ⟨_, step_of_accepted_write ht hl hd ha, ?_, ?_⟩
    · simp only [recordReply, takeTurn, accept_masters, accept_turns, accept_replies, hturns, List.tail_cons]
    · have hc : (recordReply m rest .done (takeTurn (accept i s))).completes (latch i s) :=
        ⟨by simp [nextTurn, hturns], rfl, rfl⟩
      rw [step_eq_exec hc]
      simp only [takeTurn, recordReply_turns, accept_turns, hturns, List.tail_cons]
      rfl

/-! ### No step stops (R143, R160) -/

/-- Settles O5: the one stop of the model is the engine's turn with `BUSY` 1 and nothing pending. -/
theorem noStepStopsUnderTheInvariant : Obligations.NoStepStopsUnderTheInvariant := by
  intro s hi
  unfold step
  cases nextTurn s with
  | master m => exact ⟨_, rfl⟩
  | reset => exact ⟨_, rfl⟩
  | idle => exact ⟨_, rfl⟩
  | engine =>
    rcases engineTurn_cases (takeTurn s) with ⟨_, h⟩ | ⟨p, _, _, h⟩ | ⟨hb, hp, _⟩
    · exact ⟨_, h⟩
    · exact ⟨_, h⟩
    · have hpend := hi.busy_iff_pending
      rw [takeTurn_busy] at hb
      rw [takeTurn_pend] at hp
      simp [hb, hp] at hpend

/-! ### A pending command completes (R132) -/

theorem turns_of_step {s t : State} (h : step s = .next t) : t.turns = s.turns.tail := by
  rcases step_cases h with ⟨_, rfl⟩ | ⟨_, rfl⟩ | ⟨p, _, rfl⟩ | ⟨_, _, rfl⟩ | ⟨_, _, rfl⟩ | ⟨_, _, _, _, rfl⟩ |
    ⟨_, off, v, _, _, rfl⟩
  · rfl
  · rfl
  · exact (sameHost_bodyOf p.op p (takeTurn s)).turns
  · rfl
  · rfl
  · rfl
  · exact (sameHost_writeReg off v (takeTurn s)).turns

/-- In `t` a command is pending, the one of `s`, and `DOUT` is as in `s`: none of its results is written yet. -/
structure State.StillPending (s t : State) : Prop where
  busy : t.busy = true
  pend : t.pend = s.pend
  dout : t.dout = s.dout

theorem State.StillPending.trans {s t u : State} (h : s.StillPending t) (h' : t.StillPending u) : s.StillPending u :=
  ⟨h'.busy, h'.pend.trans h.pend, h'.dout.trans h.dout⟩

/-- While a command is pending, a step of neither the engine nor reset leaves it: a command write is rejected. -/
theorem stillPending_step {s t : State} (hb : s.busy = true) (he : nextTurn s ≠ .engine) (hr : nextTurn s ≠ .reset)
    (h : step s = .next t) : s.StillPending t := by
  rcases step_effect h with ⟨hr', _⟩ | ⟨p, ⟨he', _⟩, _⟩ | ⟨m, v, l, _, rfl⟩ | ⟨hs, _⟩
  · exact absurd hr' hr
  · exact absurd he' he
  · rw [issueCommand_of_busy v (s := takeTurn s) hb]
    exact ⟨hb, rfl, rfl⟩
  · exact ⟨hs.busy.trans hb, hs.pend, hs.dout⟩

theorem stepsToCompletion_pos (ts : List Turn) : 1 ≤ stepsToCompletion ts := by
  cases ts with
  | nil => exact le_rfl
  | cons t ts => cases t <;> simp [stepsToCompletion]

/-- More than one step away from the completion, neither the engine nor reset moves, and the rest of the schedule is one
step nearer to the same end. -/
theorem waits_of_one_lt_stepsToCompletion {s : State} (h : 1 < stepsToCompletion s.turns) :
    nextTurn s ≠ .engine ∧ nextTurn s ≠ .reset ∧
      stepsToCompletion s.turns = stepsToCompletion s.turns.tail + 1 ∧
      resetComesFirst s.turns = resetComesFirst s.turns.tail := by
  cases hts : s.turns with
  | nil => simp [hts, stepsToCompletion] at h
  | cons t ts =>
    cases t with
    | engine | reset => simp [hts, stepsToCompletion] at h
    | master m | idle => simp [nextTurn, hts, stepsToCompletion, resetComesFirst]

/-- One step away from the completion the engine moves, or reset if that comes first. -/
theorem nextTurn_of_stepsToCompletion_eq_one {s : State} (hb : s.busy = true) (h : stepsToCompletion s.turns = 1) :
    nextTurn s = if resetComesFirst s.turns then .reset else .engine := by
  cases hts : s.turns with
  | nil => simp [nextTurn, hts, hb, resetComesFirst]
  | cons t ts =>
    cases t with
    | engine | reset => simp [nextTurn, hts, resetComesFirst]
    | master m | idle =>
      have hpos := stepsToCompletion_pos ts
      simp only [hts, stepsToCompletion] at h
      omega

theorem run_succ_of_step {n : Nat} {s t : State} (h : step s = .next t) :
    Host.Core.run Sys2Proof.core (n + 1) s = Host.Core.run Sys2Proof.core n t := by
  have h' : Sys2Proof.core.step s = .next t := h
  simp only [Host.Core.run, h']

/-- One more step after a run that has not stopped. -/
theorem run_succ_of_run {n : Nat} {s u t : State} (h : Host.Core.run Sys2Proof.core n s = .next u)
    (hu : step u = .next t) : Host.Core.run Sys2Proof.core (n + 1) s = .next t := by
  induction n generalizing s with
  | zero =>
    cases h
    exact run_succ_of_step hu
  | succ n ih =>
    cases hs : Sys2Proof.core.step s with
    | next s' =>
      rw [run_succ_of_step hs] at h ⊢
      exact ih h
    | fault r => simp [Host.Core.run, hs] at h
    | refused r => simp [Host.Core.run, hs] at h

/-- Before the completion the command waits, and every step taken brings the completion, or the reset that comes first,
one step nearer. -/
theorem run_while_pending {n : Nat} {s : State} (hi : s.Inv) (hb : s.busy = true)
    (hn : n < stepsToCompletion s.turns) :
    ∃ u, Host.Core.run Sys2Proof.core n s = .next u ∧ s.StillPending u ∧
      stepsToCompletion s.turns = stepsToCompletion u.turns + n ∧
      resetComesFirst s.turns = resetComesFirst u.turns := by
  induction n generalizing s with
  | zero => exact ⟨s, rfl, ⟨hb, rfl, rfl⟩, rfl, rfl⟩
  | succ n ih =>
    obtain ⟨he, hr, hsteps, hfirst⟩ := waits_of_one_lt_stepsToCompletion (s := s) (by omega)
    obtain ⟨t, ht⟩ := noStepStopsUnderTheInvariant s hi
    have hwait := stillPending_step hb he hr ht
    rw [← turns_of_step ht] at hsteps hfirst
    obtain ⟨u, hrun, hu, hsteps', hfirst'⟩ :=
      ih (everyStepKeepsTheInvariant s t hi ht) hwait.busy (by omega)
    exact ⟨u, (run_succ_of_step ht).trans hrun, hwait.trans hu, by omega, hfirst.trans hfirst'⟩

theorem stepsToCompletion_le_of_withinLatency {bound left : Nat} {ts : List Turn}
    (h : withinLatency bound left ts = true) : stepsToCompletion ts ≤ left + 1 := by
  induction ts generalizing left with
  | nil => simp [stepsToCompletion]
  | cons t ts ih =>
    cases t with
    | engine | reset => simp [stepsToCompletion]
    | master m | idle =>
      cases left with
      | zero => cases h
      | succ left => exact Nat.succ_le_succ (ih h)

/-- Settles O40: the run up to the last step before the completion keeps the command; then the engine moves, or reset. -/
theorem everyAcceptedCommandCompletes : Obligations.EveryAcceptedCommandCompletes := by
  refine ⟨fun s hi hb => ⟨fun n hn => ?_, ?_⟩, fun _ _ _ => stepsToCompletion_le_of_withinLatency⟩
  · obtain ⟨u, hrun, hu, _⟩ := run_while_pending hi hb hn
    exact ⟨u, hrun, hu.busy, hu.pend, hu.dout⟩
  · obtain ⟨p, hp⟩ := Option.isSome_iff_exists.mp (hi.busy_iff_pending.symm.trans hb)
    have hpos := stepsToCompletion_pos s.turns
    obtain ⟨u, hrun, hu, hsteps, hfirst⟩ :=
      run_while_pending (n := stepsToCompletion s.turns - 1) hi hb (by omega)
    have hup : u.pend = some p := hu.pend.trans hp
    have hturn := nextTurn_of_stepsToCompletion_eq_one hu.busy (by omega)
    have hlast : ∀ t, step u = .next t →
        Host.Core.run Sys2Proof.core (stepsToCompletion s.turns) s = .next t := fun t ht => by
      simpa only [Nat.sub_add_cancel hpos] using run_succ_of_run hrun ht
    cases hr : resetComesFirst s.turns with
    | false =>
      have hc : u.completes p := ⟨by rw [hturn, ← hfirst, hr]; rfl, hu.busy, hup⟩
      exact ⟨p, u, _, hp, hrun, hup, hlast _ (step_of_completes hc), rfl, rfl,
        fun _ => ⟨exec_of_pending (s := takeTurn u) p.op hup, rfl⟩, nofun⟩
    | true =>
      have ht : nextTurn u = .reset := by rw [hturn, ← hfirst, hr]; rfl
      exact ⟨p, u, _, hp, hrun, hup, hlast _ (step_of_reset ht), rfl, rfl, nofun, fun _ => rfl⟩

/-! ### Encrypting and decrypting (R134 to R137, R124) -/

/-- The block in `DIN` encrypted, its words copied back and decrypted. -/
theorem wordsOf_invCipher_cipher (rk : Schedule) (r : RegBank) :
    wordsOf (invCipher (bytesOf (wordsOf (cipher (bytesOf r) rk))) rk) = r := by
  rw [bytesOf_wordsOf, invCipher_cipher, wordsOf_bytesOf]

theorem wordsOf_cipher_invCipher (rk : Schedule) (r : RegBank) :
    wordsOf (cipher (bytesOf (wordsOf (invCipher (bytesOf r) rk))) rk) = r := by
  rw [bytesOf_wordsOf, cipher_invCipher, wordsOf_bytesOf]

/-- Settles O58: the second command runs under the schedule of the first. -/
theorem encryptThenDecryptReturnsTheBlock : Obligations.EncryptThenDecryptReturnsTheBlock :=
  ⟨fun s => ⟨_, _, exec_accept .ecbenc s, exec_accept .ecbdec _, wordsOf_invCipher_cipher s.rk s.din, rfl⟩,
    fun s => ⟨_, _, exec_accept .ecbdec s, exec_accept .ecbenc _, wordsOf_cipher_invCipher s.rk s.din, rfl⟩,
    fun s => ⟨_, _, exec_accept .ecbenck s, exec_accept .ecbdeck _,
      wordsOf_invCipher_cipher (keyExpansion (bytesOf s.key)) s.din, rfl⟩⟩

/-! ### A CBC message (R139, R141) -/

/-- One block of a message: `DOUT` holds its plaintext, `CV` the block itself, and the schedule stays. -/
theorem cbcBlock_next (c : Block) (s : State) :
    ∃ t, cbcBlock c s = .next t ∧ bytesOf t.dout = xorBlock (invCipher c s.rk) s.cv ∧ t.cv = c ∧ t.rk = s.rk ∧
      t.keyValid = s.keyValid := by
  refine ⟨_, exec_accept .cbcdec _, ?_, bytesOf_wordsOf c, rfl, rfl⟩
  show bytesOf (wordsOf (xorBlock (invCipher (bytesOf (wordsOf c)) s.rk) s.cv)) = _
  rw [bytesOf_wordsOf, bytesOf_wordsOf]

/-- The plaintext of the ciphertext blocks `cs` under the schedule `rk`, the chaining value being `cv` (R139). -/
def cbcPlaintext (rk : Schedule) (cv : Block) (cs : List Block) : List Block :=
  List.zipWith (fun c prev => xorBlock (invCipher c rk) prev) cs (cv :: cs)

theorem length_cbcPlaintext (rk : Schedule) (cv : Block) (cs : List Block) :
    (cbcPlaintext rk cv cs).length = cs.length := by
  simp [cbcPlaintext]

theorem cbcMessage_eq_cbcPlaintext (cs : List Block) (s : State) :
    ∃ t, cbcMessage cs s = some (cbcPlaintext s.rk s.cv cs, t) ∧ t.cv = cs.getLastD s.cv ∧ t.rk = s.rk ∧
      t.keyValid = s.keyValid := by
  induction cs generalizing s with
  | nil => exact ⟨s, rfl, rfl, rfl, rfl⟩
  | cons c cs ih =>
    obtain ⟨t, ht, hdout, hcv, hrk, hkv⟩ := cbcBlock_next c s
    obtain ⟨u, hu, hcv', hrk', hkv'⟩ := ih t
    refine ⟨u, ?_, ?_, hrk'.trans hrk, hkv'.trans hkv⟩
    · simp only [cbcMessage, ht, hu, Option.map_some, hdout, hcv, hrk]
      rfl
    · rw [hcv', hcv, List.getLastD_cons]

/-- Settles O59, by induction on the message. -/
theorem cbcMessageIsChained : Obligations.CbcMessageIsChained := by
  intro cs s
  obtain ⟨t, ht, hcv, hrk, hkv⟩ := cbcMessage_eq_cbcPlaintext cs s
  exact ⟨_, t, ht, length_cbcPlaintext s.rk s.cv cs, fun b _ _ => List.getElem_zipWith, hcv, hrk, hkv⟩

end Sys2Proof.Machine

/-! SUPPORT. Proof of the statement about exceptions (60_exceptions.md): a command write that is rejected, and an access
that is a bus error. -/

namespace Sys2Proof.Machine

/-- A master's rejected `CMD` write leaves the code in `ERR` and records that the write is done (R164). -/
theorem step_of_rejected_write {s : State} {m : Nat} {v : Word} {rest : List BusOp} {e : ErrName}
    (ht : nextTurn s = .master m) (hl : s.masters.getD m [] = .wr 0x00#7 v :: rest)
    (he : issueCommand v s = reject e s) : step s = .next (recordReply m rest .done (takeTurn (reject e s))) := by
  rw [step_of_access ht hl, access_of_write s v rfl rfl, writeReg_cmd, he]

/-- A master's access that is a bus error leaves the engine as it stands and records the error (R162). -/
theorem step_of_busError {s : State} {m : Nat} {a : Access} {rest : List BusOp} (ht : nextTurn s = .master m)
    (hl : s.masters.getD m [] = .access a :: rest) (hwf : a.wf = false) :
    step s = .next (recordReply m rest (.busError a.off a.size) (takeTurn s)) := by
  rw [step_of_access ht hl, access_of_not_wf s hwf]

/-- Settles O22: the code is that of the one case of `IssueCommand` the write falls under, acceptance being excluded. -/
theorem rejectedCommandWritesArePrecise : Obligations.RejectedCommandWritesArePrecise := by
  refine ⟨fun s m v rest ht hl hna => ?_, fun _ _ _ _ => step_of_busError⟩
  rcases issueCommand_cases v s with ⟨hb, he⟩ | ⟨hb, ⟨x, hd⟩, he⟩ | ⟨i, hb, hd, _, _, he⟩ | ⟨i, hb, hd, hk, _⟩
  · exact ⟨_, step_of_rejected_write ht hl he, fun _ => rfl, by simp [hb], by simp [hb]⟩
  · exact ⟨_, step_of_rejected_write ht hl he, by simp [hb], fun _ _ => rfl, by simp [hd]⟩
  · exact ⟨_, step_of_rejected_write ht hl he, by simp [hb], by simp [hd], fun _ _ => rfl⟩
  · exact absurd ⟨hb, hk⟩ (hna i hd)

end Sys2Proof.Machine

/-! SUPPORT. Proofs of the statements about reset and hazards (70_reset_and_hazards.md): the platform's reset, and operand
writes while a command is pending. -/

namespace Sys2Proof.Machine

/-! ### Reset (R190) -/

/-- Settles O2: a reset step does not look at what is pending. -/
theorem platformResetAbortsAndZeroes : Obligations.PlatformResetAbortsAndZeroes := fun _ h => step_of_reset h

/-! ### Operand writes while a command is pending (R195) -/

/-- `s` once `KEY`, `IV` and `DIN` have become `key`, `iv` and `din`. -/
def State.setOperands (s : State) (key iv din : RegBank) : State := { s with key := key, iv := iv, din := din }

/-- A body but `CLEAR`'s works on the latched record, so new operands before it and after it come to the same. -/
theorem bodyOf_setOperands {i : Instr} (h : i ≠ .clear) (p : Pending) (s : State) (key iv din : RegBank) :
    bodyOf i p (s.setOperands key iv din) = (bodyOf i p s).setOperands key iv din := by
  cases i with
  | clear => exact absurd rfl h
  | _ => rfl

/-- `CLEAR` overwrites the new operands (R140). -/
theorem bodyOf_clear_setOperands (p : Pending) (s : State) (key iv din : RegBank) :
    bodyOf .clear p (s.setOperands key iv din) = bodyOf .clear p s := rfl

theorem finish_setOperands (s : State) (key iv din : RegBank) :
    finish (s.setOperands key iv din) = (finish s).setOperands key iv din := rfl

/-- New operands leave the pending record, so a completion runs the same body. -/
theorem exec_setOperands (i : Instr) {s : State} {p : Pending} (h : s.pend = some p) (key iv din : RegBank) :
    exec i (s.setOperands key iv din) = .next (finish (bodyOf i p (s.setOperands key iv din))) :=
  exec_of_pending (s := s.setOperands key iv din) i h

/-- Settles O38: the new operands pass through every body but that of `CLEAR`, which zeroes them. -/
theorem operandWritesNeverReachAPendingCommand : Obligations.OperandWritesNeverReachAPendingCommand := by
  intro i s t key iv din h
  obtain ⟨p, hp, rfl⟩ := exec_next_cases h
  have hexec := exec_setOperands i hp key iv din
  refine ⟨fun hi => ?_, fun hi => ?_⟩
  · rw [bodyOf_setOperands hi, finish_setOperands] at hexec
    exact hexec
  · subst hi
    rw [bodyOf_clear_setOperands] at hexec
    exact ⟨hexec, rfl, rfl, rfl⟩

end Sys2Proof.Machine

/-! SUPPORT. The base case of the invariant: the reset state (10_state.md R37). -/

namespace Sys2Proof.Machine

/-- A platform reset keeps only the host's side, and the reset state has none. -/
theorem platformReset_reset : platformReset State.reset = State.reset := rfl

/-- Settles O3: the reset state is what a platform reset makes of itself. -/
theorem resetMeetsTheInvariant : Obligations.ResetMeetsTheInvariant := by
  rw [Obligations.ResetMeetsTheInvariant, ← platformReset_reset]
  exact inv_platformReset State.reset

end Sys2Proof.Machine
